-- ==== Sys2Proof/Word.lean ====
section
/-! DEFINITION. The fixed-width unsigned values of the block (00_scope.md R10): u8, u32 and u64. Addition, subtraction,
multiplication, complement and exclusive or on them are Lean's own `BitVec` operations, which wrap modulo 2^N as R10 says. -/

namespace Sys2Proof

/-- A u8: one byte (R10). -/
abbrev Byte := BitVec 8

/-- A u32: a register of the host window, a command word, a seed (R10, R36). -/
abbrev Word32 := BitVec 32

/-- A u64: a word of the State or of the digest vector (R10, R20, R25). -/
abbrev Word64 := BitVec 64

/-- Eight u64 words: the State `ST[0..7]` (R20). -/
abbrev Words := Vector Word64 8

end Sys2Proof
end

