-- ==== Sys2Proof/Syntax.lean ====
section
/-! DEFINITION. The commands (30_encoding.md R74), the errors a command can end in (60_exceptions.md R147), the registers of the
host window by name (10_state.md R36), and the host's moves (60_exceptions.md R169, 30_encoding.md R82). -/

namespace Sys2Proof

/-- The ten commands, one constructor for each row of spec/opcode_table.json (R74). -/
inductive Instr where
  | nop                       -- R92
  | init                      -- R97
  | seedx                     -- R101
  | mix (pivot : BitVec 3)    -- R107; the field A of R73, legal 0 .. 6
  | absm                      -- R122
  | abss                      -- R124
  | absx                      -- R126
  | final                     -- R131
  | hash                      -- R134
  | norm                      -- R142
  deriving DecidableEq, Repr

/-- The error codes 1 to 6 of R147; code 0, no error, is the absence of one, and codes 7 to 15 are never produced. -/
inductive ErrorCode where
  | illegalCmd
  | badOperand
  | stateNotValid
  | seedbufNotValid
  | invalidArgument
  | busError
  deriving DecidableEq, Repr

/-- The registers of the host window (R36), less its reserved offsets (R41). -/
inductive Reg where
  | cmd
  | status
  | seed
  | msgLen
  | msgAddrLo
  | msgAddrHi
  | digestLo (k : Fin 4)
  | digestHi (k : Fin 4)
  | stLo (k : Fin 8)
  | stHi (k : Fin 8)
  | sb (k : Fin 4)
  deriving DecidableEq, Repr

/-- What reaches the block from outside, and the turns of its engine (log entry 3). A list of these says in which order the host,
the platform's reset and the engine act. -/
inductive Input where
  | engine                                            -- the engine takes its turn (R87, R91)
  | write (addr bytes : Nat) (value : Word32)         -- a host write of `bytes` bytes at a host address (R53)
  | read (addr bytes : Nat)                           -- a host read of `bytes` bytes at a host address (R53)
  | poll                                              -- read STATUS until BUSY = 0 (R82)
  | mem (addr : Nat) (data : List Byte)               -- host writes to message memory (R82, R169)
  | reset                                             -- the platform asserts reset (R170)
  deriving DecidableEq, Repr

end Sys2Proof
end

