-- ==== Sys2Proof/WellFormed.lean ====
section
/-! DEFINITION. Which command terms the spec allows: every one, but for MIX with a pivot outside 0 .. 6 (R73, R77). -/

namespace Sys2Proof

/-- R73: the legal values of the pivot field are 0 .. 6. -/
def pivotLegal (a : BitVec 3) : Bool :=
  decide (a.toNat ≤ 6)

/-- A command whose operands are legal (R73). -/
def Instr.wellFormed : Instr → Bool
  | .nop => true
  | .init => true
  | .seedx => true
  | .mix a => pivotLegal a
  | .absm => true
  | .abss => true
  | .absx => true
  | .final => true
  | .hash => true
  | .norm => true

end Sys2Proof
end

