-- ==== Sys2Proof/Decode.lean ====
section
/-! DEFINITION. The decoder of 30_encoding.md R80, total on every 32-bit word, and after it the encoder of R74. -/

namespace Sys2Proof

/-- OPC, bits 7:0 of a command word (R71, R72). -/
def fieldOpc (c : Word32) : BitVec 8 := c.extractLsb' 0 8

/-- RSV of format N, bits 31:8 (R71). -/
def fieldRsvN (c : Word32) : BitVec 24 := c.extractLsb' 8 24

/-- RSV of format M, bits 31:11 (R72). -/
def fieldRsvM (c : Word32) : BitVec 21 := c.extractLsb' 11 21

/-- A of format M, bits 10:8 (R72, R73). -/
def fieldA (c : Word32) : BitVec 3 := c.extractLsb' 8 3

/-- The opcode map of R74 for format N; a reserved opcode (R75) and the format M opcode give none. -/
def opcodeN (opc : BitVec 8) : Option Instr :=
  if opc = 0x00 then some .nop
  else if opc = 0x01 then some .init
  else if opc = 0x02 then some .seedx
  else if opc = 0x04 then some .absm
  else if opc = 0x05 then some .abss
  else if opc = 0x06 then some .absx
  else if opc = 0x07 then some .final
  else if opc = 0x08 then some .hash
  else if opc = 0x09 then some .norm
  else none

/-- `decode(c)` of R80: the command, or the error that decoding raises, in R80's order of tests. -/
def decode (c : Word32) : Except ErrorCode Instr :=
  if 0x0A ≤ (fieldOpc c).toNat then .error .illegalCmd
  else if fieldOpc c = 0x03 then
    if fieldRsvM c ≠ 0 then .error .illegalCmd
    else if fieldA c = 7 then .error .badOperand
    else .ok (.mix (fieldA c))
  else if fieldRsvN c ≠ 0 then .error .illegalCmd
  else
    match opcodeN (fieldOpc c) with
    | some i => .ok i
    | none => .error .illegalCmd

/-- The word of a command (R74). -/
def encode : Instr → Word32
  | .nop => 0x00000000
  | .init => 0x00000001
  | .seedx => 0x00000002
  | .mix a => 0x00000003 ||| (a.setWidth 32 <<< 8)
  | .absm => 0x00000004
  | .abss => 0x00000005
  | .absx => 0x00000006
  | .final => 0x00000007
  | .hash => 0x00000008
  | .norm => 0x00000009

/-- The command word whose low `nbits` bits are those of `w` and whose other bits are 0 (R70: a command is one 32-bit word). -/
def tableWord (nbits w : Nat) : Word32 :=
  BitVec.ofNat 32 (w % 2 ^ nbits)

/-- The command that the decoder reads from a word numbered as spec/opcode_table.json numbers its bits (R70, R80). -/
def decodeTableWord (nbits w : Nat) : Option Instr :=
  if nbits ≤ 32 then (decode (tableWord nbits w)).toOption else none

end Sys2Proof
end

