-- ==== Sys2Proof/Machine/Constants.lean ====
section
/-! DEFINITION. The fixed values of 00_scope.md R6. -/

namespace Sys2Proof.Machine

/-- `P = 2^64 - 59` (R6, R105). -/
def mixP : Word64 := 0xFFFFFFFFFFFFFFC5

/-- `Q = 13166748625691186689` (R6, R105). -/
def mixQ : Word64 := 0xB6B9B01D592F9601

/-- `ROT`, the right rotation of a u64 (R6, R105). -/
def rotWord : Nat := 23

/-- `BYTE_ROT`, the right rotation of a u8 (R6; 90_conflicts.md C1). -/
def rotByte : Nat := 7

/-- `SEED_C0` (R6, R99). -/
def seedC0 : Word32 := 0xC5550690

/-- `SEED_C3` (R6, R99). -/
def seedC3 : Word32 := 0xF00DACCA

/-- `NULL_ADDR` (R6, R149). -/
def nullAddr : Word64 := 0

/-- The size in bytes of the register window (R36). -/
def windowSize : Nat := 4096

end Sys2Proof.Machine
end

