-- ==== Sys2Proof/Machine/Bits.lean ====
section
/-! DEFINITION. Rotations (00_scope.md R12), little-endian assembly (R13), and the byte views of the State and of the seed
buffer (10_state.md R22 to R24). -/

namespace Sys2Proof.Machine

/-- `rotr64(x, r)` of R12. -/
def rotr64 (x : Word64) (r : Nat) : Word64 := (x >>> r) ||| (x <<< (64 - r))

/-- `rotr8(x, r)` of R12. -/
def rotr8 (x : Byte) (r : Nat) : Byte := (x >>> r) ||| (x <<< (8 - r))

/-- `LE(b0, .., b(n-1))` of R13, as a natural number. -/
def le : List Byte → Nat
  | [] => 0
  | b :: bs => b.toNat + 2 ^ 8 * le bs

/-- `LE` of eight bytes, a u64 (R13). -/
def le64 (bs : List Byte) : Word64 := BitVec.ofNat 64 (le bs)

/-- Byte `k` of a value: `v[8k+7 : 8k]` (R13). -/
def byteOf {w : Nat} (v : BitVec w) (k : Nat) : Byte := v.extractLsb' (8 * k) 8

/-- `bytesLE_n(v)`: the bytes 0 to n - 1 of a value (R13). -/
def bytesLE {w : Nat} (n : Nat) (v : BitVec w) : List Byte := (List.range n).map (byteOf v)

/-- Byte `k` of a value replaced, its other bits kept (R22). -/
def setByteOf (v : Word64) (k : Nat) (b : Byte) : Word64 :=
  (v &&& ~~~((0xFF : Word64) <<< (8 * k))) ||| (b.setWidth 64 <<< (8 * k))

/-- State byte `STB[k]` (R22); the index counts modulo 64. -/
def stByte (st : Words) (k : Nat) : Byte :=
  byteOf (st[k / 8 % 8]'(Nat.mod_lt _ (by decide))) (k % 8)

/-- `STB[k] <- b` (R22): the other 56 bits of the word, and every other word, are kept. -/
def setStByte (st : Words) (k : Nat) (b : Byte) : Words :=
  st.set (k / 8 % 8) (setByteOf (st[k / 8 % 8]'(Nat.mod_lt _ (by decide))) (k % 8) b) (Nat.mod_lt _ (by decide))

/-- `image(ST)`: the 64 state bytes in order (R23). -/
def image (st : Words) : List Byte := (List.range 64).map (stByte st)

/-- Seed buffer byte `SBB[k]` (R24); the index counts modulo 16. -/
def sbByte (sb : Vector Word32 4) (k : Nat) : Byte :=
  byteOf (sb[k / 4 % 4]'(Nat.mod_lt _ (by decide))) (k % 4)

/-- Seed buffer words `SBW[0] = {SB[1], SB[0]}` and `SBW[1] = {SB[3], SB[2]}` (R24); the index counts modulo 2. -/
def sbWord (sb : Vector Word32 4) (i : Nat) : Word64 :=
  (sb[2 * (i % 2) + 1]'(by omega)) ++ (sb[2 * (i % 2)]'(by omega))

/-- The low half of a u64, as a `_LO` register shows it (R49). -/
def loHalf (v : Word64) : Word32 := v.extractLsb' 0 32

/-- The high half of a u64, as a `_HI` register shows it (R49). -/
def hiHalf (v : Word64) : Word32 := v.extractLsb' 32 32

end Sys2Proof.Machine
end

