-- ==== Sys2Proof/Config.lean ====
section
/-! DEFINITION. What an implementation and its platform fix: the OPEN parameters of 00_scope.md R6, each with the premise the spec
puts on it, and the free values ("draws") of R47. The parameters are plain data, so that a state can name any assignment of them;
`Config.params` is the one a machine is built with, and has no body: nothing can be proved of its values. -/

namespace Sys2Proof.Config

/-- The constant store `INIT_STATE[0..7]` (R44), with the premise of R98 that its words are pairwise distinct. The field
defaults serve only to show Lean that such a store exists, so that `Config.params` may be declared without a body (log entry 1). -/
structure InitStore where
  words : Words := #v[0, 1, 2, 3, 4, 5, 6, 7]
  distinct : words.toList.Nodup := by decide
  deriving DecidableEq, Repr, Inhabited

/-- The constant store `BAD_SEEDS` (R44): its members, and the premise of R6 and R141 that they are not all of u32, carried by
one seed that is not a member. The field defaults serve only to show Lean that such a store exists (log entry 1). -/
structure BadSeeds where
  members : List Word32 := []
  good : Word32 := 0
  outside : good ∉ members := by decide
  deriving DecidableEq, Repr, Inhabited

/-- A range of `size` addresses from `base`. -/
structure Region where
  base : Nat
  size : Nat
  deriving DecidableEq, Repr, Inhabited

/-- The OPEN parameters of R6, as plain data. `memAdmit` lists the ranges whose addresses satisfy `MemAdmit` (every predicate
on the 2^ADDR_W addresses is such a list); `sideEffects` lists the ranges whose reads have side effects or are not idempotent
(R61); `windowShared` says whether `CSR_BASE` is an address of message memory (R52). -/
structure Params where
  initStore : InitStore := default
  wordCtrInit : Word64
  byteCtrInit : Byte
  badSeeds : BadSeeds := default
  addrW : Nat := 1
  addrW_pos : 1 ≤ addrW := by decide
  addrW_le : addrW ≤ 64 := by decide
  memAdmit : List Region
  sideEffects : List Region
  csrBase : Nat := 0
  csrBase_aligned : csrBase % 4096 = 0 := by decide
  windowShared : Bool
  deriving DecidableEq, Repr, Inhabited

/-- The parameters the machine is built with (R6, R7, R19): no value of any of them is stated (log entry 1). -/
opaque params : Params

/-- The free values of R47, R66 and R154: the `n`-th draw, of width `w`, under no law (log entry 2). -/
opaque draw : (w : Nat) → (n : Nat) → BitVec w

/-- Eight drawn u64 words, draws `n` to `n + 7`. -/
def drawWords8 (n : Nat) : Words :=
  #v[draw 64 n, draw 64 (n + 1), draw 64 (n + 2), draw 64 (n + 3),
    draw 64 (n + 4), draw 64 (n + 5), draw 64 (n + 6), draw 64 (n + 7)]

/-- Four drawn u32 words, draws `n` to `n + 3`. -/
def drawWords4 (n : Nat) : Vector Word32 4 :=
  #v[draw 32 n, draw 32 (n + 1), draw 32 (n + 2), draw 32 (n + 3)]

end Sys2Proof.Config
end

