-- ==== Sys2Proof/Machine/State.lean ====
section
/-! DEFINITION. The state of the block (10_state.md), the message memory its host owns (20_memory.md), the reasons a step can stop,
and the machine right after reset (10_state.md R46). -/

namespace Sys2Proof.Machine

/-- The fields of `STATUS` (R29). Bits 31:11 are reserved and read zero, so nothing holds them. -/
structure Status where
  busy : Bool
  done : Bool
  err : Bool
  ovr : Bool
  errcode : BitVec 4
  stateValid : Bool
  seedbufValid : Bool
  digestValid : Bool
  deriving DecidableEq, Repr

/-- `STATUS = 0x00000000` (R46). -/
def Status.zero : Status := ⟨false, false, false, false, 0, false, false, false⟩

/-- The phases of an absorption pass (R42). -/
inductive Phase where
  | word
  | wflush
  | byte
  | cflush
  | done
  deriving DecidableEq, Repr

/-- A phase drawn from three bits (R46). -/
def Phase.ofDraw (d : BitVec 3) : Phase :=
  if d = 0 then .word else if d = 1 then .wflush else if d = 2 then .byte else if d = 3 then .cflush else .done

/-- The internal registers of an absorption pass (R42): `CTR`, `C8`, the slot cursor `SIDX`, the element index `IDX`, the pass
length `LEN` and `PHASE`. What they hold between passes is the model's choice (DESIGN CHOICE, log entry 6). -/
structure Pass where
  ctr : Word64
  c8 : Byte
  sidx : Fin 8
  idx : Nat
  len : Nat
  phase : Phase
  deriving DecidableEq, Repr

/-- Pass registers that hold free values, draws `n` to `n + 5` (R46, R47); `IDX` and `LEN` are below 2^31 (R42). -/
def Pass.drawn (n : Nat) : Pass :=
  { ctr := Config.draw 64 n
    c8 := Config.draw 8 (n + 1)
    sidx := (Config.draw 3 (n + 2)).toFin
    idx := (Config.draw 31 (n + 3)).toNat
    len := (Config.draw 31 (n + 4)).toNat
    phase := Phase.ofDraw (Config.draw 3 (n + 5)) }

/-- Message memory (R51): the bytes that differ from what an unlisted address reads as, by strictly rising address. -/
abbrev Memory := List Host.Cell

/-- What the block and its host's message memory hold. The last four fields are the model's own, not the spec's
(INVENTORY.md, State). -/
structure State where
  params : Config.Params         -- the parameters, the constant stores among them (R6, R44); no step changes them
  st : Words                     -- ST[0..7] (R20)
  sb : Vector Word32 4           -- SB[0..3] (R24)
  dg : Vector Word64 4           -- DG[0..3] (R25)
  seed : Word32                  -- SEED (R26)
  msgLen : Word32                -- MSG_LEN (R27)
  msgAddr : Word64               -- MSG_ADDR (R28)
  status : Status                -- STATUS (R29)
  cur : Word32                   -- CUR, the accepted command word (R86)
  pass : Pass                    -- CTR, C8, SIDX, IDX, LEN, PHASE (R42)
  snap : Words                   -- SNAP, 512 bits, whose byte image is the copied image (R43)
  mem : Memory                   -- message memory, owned by the host (R51)
  raced : List Nat               -- message addresses the host wrote while BUSY = 1, since the last acceptance (R66)
  hostRead : Word32              -- the value the last host read of the window returned
  inputs : List Input            -- what the host, the platform and the engine do next, in order
  draws : Nat                    -- how many free values have been drawn
  deriving DecidableEq, Repr

/-- Why the machine stops for want of a step of the HOST. No command of the block ends in one of these. -/
inductive Fault where
  /-- Raised by a host access to the register window that is not 32 bits wide at a multiple of 4 (R53: "the host is stuck").
  Safe: the model gives the host no such step. -/
  | hostAccessNotWord
  /-- Raised by a host access to an address that is not in the register window (R52): no register of the block is there. Safe. -/
  | hostAccessOutsideWindow
  /-- Raised by a host write to a message address at or above 2^ADDR_W (R51): no such byte exists. Safe. -/
  | hostMemOutOfRange
  /-- Raised by a host write, while BUSY = 1, to a byte of message memory that is outside the message range (R169: the host may
  write message memory while idle, and "a model gives the host no move that the may column lacks"). Safe. -/
  | hostMemWhileBusy
  deriving DecidableEq, Repr

/-- Why the machine gives a command no meaning. -/
inductive Refusal where
  /-- Raised by exec for an instruction that has no meaning yet; safe. No arm of exec uses it. -/
  | notModelled (mnemonic : String)
  /-- Raised by ABSM and HASH when the message lies in memory whose reads have side effects or are not idempotent (R61: "a model
  must refuse such a launch"). Safe: the spec says nothing of what the block does there. -/
  | messageNotIdempotent
  deriving DecidableEq, Repr

/-- The machine right after reset (R46): `DG`, `SEED`, `MSG_LEN`, `MSG_ADDR` and `STATUS` are zero; `ST`, `SB` and the internal
registers hold free values (R47; log entry 2); message memory lists nothing. -/
def State.reset : State :=
  { params := Config.params
    st := Config.drawWords8 0
    sb := Config.drawWords4 8
    dg := #v[0, 0, 0, 0]
    seed := 0
    msgLen := 0
    msgAddr := 0
    status := Status.zero
    cur := Config.draw 32 12
    pass := Pass.drawn 13
    snap := Config.drawWords8 19
    mem := []
    raced := []
    hostRead := 0
    inputs := []
    draws := 27 }

end Sys2Proof.Machine
end

