-- ==== Sys2Proof/Machine/Flags.lean ====
section
/-! DEFINITION. The fields of `STATUS`: its word as the host reads it (10_state.md R29), the error codes (60_exceptions.md R147), and
the updates that acceptance, completion and the commands make (10_state.md R30 to R35). The block has no arithmetic flags (R45). -/

namespace Sys2Proof.Machine

/-- `code(E)` of R147. -/
def errorNumber : ErrorCode → BitVec 4
  | .illegalCmd => 1
  | .badOperand => 2
  | .stateNotValid => 3
  | .seedbufNotValid => 4
  | .invalidArgument => 5
  | .busError => 6

/-- The `STATUS` word (R29): the valid bits in 10 to 8, `ERRCODE` in 7:4, then OVR, ERR, DONE and BUSY in 3 to 0. -/
def statusWord (f : Status) : Word32 :=
  (0 : BitVec 21) ++ BitVec.ofBool f.digestValid ++ BitVec.ofBool f.seedbufValid ++ BitVec.ofBool f.stateValid ++
    f.errcode ++ BitVec.ofBool f.ovr ++ BitVec.ofBool f.err ++ BitVec.ofBool f.done ++ BitVec.ofBool f.busy

/-- What acceptance does to `STATUS` (R86); the valid bits are kept. -/
def statusAccepted (f : Status) : Status :=
  { f with busy := true, done := false, err := false, errcode := 0, ovr := false }

/-- What completion does to `STATUS` (R89, R31): with no error, or with the error the command raised. -/
def statusCompleted (e : Option ErrorCode) (f : Status) : Status :=
  match e with
  | none => { f with busy := false, done := true, err := false, errcode := 0 }
  | some e => { f with busy := false, done := true, err := true, errcode := errorNumber e }

/-- What a dropped host write does to `STATUS` (R32). -/
def statusOverrun (f : Status) : Status := { f with ovr := true }

/-- What the initialisation does to the valid bits (R33, R35, R97). -/
def statusInitialised (f : Status) : Status := { f with stateValid := true, digestValid := false }

/-- What the seed expansion does to the valid bits (R34, R101). -/
def statusSeedExpanded (f : Status) : Status := { f with seedbufValid := true }

/-- What the finalisation does to the valid bits (R33 to R35, R131). -/
def statusFinalised (f : Status) : Status :=
  { f with digestValid := true, stateValid := false, seedbufValid := false }

end Sys2Proof.Machine
end

