-- ==== Sys2Proof/Machine/Platform.lean ====
section
/-! DEFINITION. What the platform's parameters say (00_scope.md R6): membership of BAD_SEEDS, `MemAdmit`, the register window's place,
the writable bits of `MSG_ADDR`. -/

namespace Sys2Proof.Machine

/-- `s in BAD_SEEDS` (R44, R140). -/
def isBadSeed (b : Config.BadSeeds) (s : Word32) : Bool := b.members.contains s

/-- The addresses of a region. -/
def inRegion (r : Config.Region) (a : Nat) : Bool := decide (r.base ≤ a ∧ a < r.base + r.size)

/-- `MemAdmit(a)` (R6, R51). -/
def memAdmits (p : Config.Params) (a : Nat) : Bool := p.memAdmit.any (inRegion · a)

/-- The number of bytes of message memory, `2^ADDR_W` (R51). -/
def memSize (p : Config.Params) : Nat := 2 ^ p.addrW

/-- Whether `len` addresses from `base` share one with a region. -/
def meetsRegion (base len : Nat) (r : Config.Region) : Bool :=
  decide (0 < len ∧ 0 < r.size ∧ base < r.base + r.size ∧ r.base < base + len)

/-- The register window as a region of the host's address space (R36, R52). -/
def windowRegion (p : Config.Params) : Config.Region := ⟨p.csrBase, windowSize⟩

/-- Whether a range of message addresses overlaps the register window (R52, R66). -/
def meetsWindow (p : Config.Params) (base len : Nat) : Bool :=
  p.windowShared && meetsRegion base len (windowRegion p)

/-- Whether a range of message addresses has reads with side effects or reads that are not idempotent (R61). -/
def meetsSideEffects (p : Config.Params) (base len : Nat) : Bool :=
  decide (0 < len) && p.sideEffects.any (meetsRegion base len)

/-- The offset in the register window of a host address (R36, R52). -/
def windowOffset (p : Config.Params) (addr : Nat) : Option Nat :=
  if inRegion (windowRegion p) addr then some (addr - p.csrBase) else none

/-- The bits of `MSG_ADDR` that can be written: bits `ADDR_W - 1 .. 0`; the others are hardwired zero (R28). -/
def maskMsgAddr (p : Config.Params) (v : Word64) : Word64 := BitVec.ofNat 64 (v.toNat % 2 ^ p.addrW)

end Sys2Proof.Machine
end

