-- ==== Sys2Proof/Machine/Ops.lean ====
section
/-! DEFINITION. The named operations over message memory and registers, and the life cycle of a command: acceptance
(40_command_sequencing.md R86), completion (R89), and the raising of an error (60_exceptions.md R153, R154). -/

namespace Sys2Proof.Machine

/-- What a byte of message memory that is not listed reads as (log entry 4). -/
def memUnlisted : Byte := 0

/-- One byte of message memory, as the host last wrote it (R65). -/
def Memory.read : Memory → Nat → Byte
  | [], _ => memUnlisted
  | (b, v) :: m, a => if a = b then v else Memory.read m a

/-- A cell before the rest of a memory, left out where it holds what an unlisted byte reads as. -/
def consCell (a : Nat) (v : Byte) (m : Memory) : Memory :=
  if v = memUnlisted then m else (a, v) :: m

/-- A host write of one byte of message memory (R82). -/
def Memory.write : Memory → Nat → Byte → Memory
  | [], a, v => consCell a v []
  | (b, x) :: m, a, v =>
    if a < b then consCell a v ((b, x) :: m)
    else if a = b then consCell a v m
    else (b, x) :: Memory.write m a v

/-- Host writes of bytes at `a`, `a + 1`, .. (R82). -/
def Memory.writeAll : Memory → Nat → List Byte → Memory
  | m, _, [] => m
  | m, a, v :: vs => Memory.writeAll (Memory.write m a v) (a + 1) vs

/-- Every address of a memory is above `a`, strictly rising, and no cell holds what an unlisted byte reads as. -/
def memRisingFrom : Option Nat → Memory → Bool
  | _, [] => true
  | low, (b, v) :: m => (low.all (· < b)) && (v != memUnlisted) && memRisingFrom (some b) m

/-- The canonical form of a memory: addresses strictly rising, no cell equal to what an unlisted address reads as. -/
def Memory.wf (m : Memory) : Bool := memRisingFrom none m

/-- Acceptance of the command word `c` (R86), without the decoding. The valid bits are not changed. No host write has raced with
the new command yet (R66). -/
def acceptCommand (c : Word32) (s : State) : State :=
  { s with status := statusAccepted s.status, cur := c, raced := [] }

/-- Completion without an error (R89). -/
def completeCommand (s : State) : State :=
  { s with status := statusCompleted none s.status }

/-- `raise E` (R16): the command completes with the error E and changes nothing but `STATUS` (R153). The block has no vector,
handler, saved register or mode (R146), and no return from an error: the next acceptance clears it (R157). -/
def raiseError (e : ErrorCode) (s : State) : State :=
  { s with status := statusCompleted (some e) s.status }

/-- `raise BUS_ERROR` after part of a pass has run (R154): `ST` is drawn afresh and `STATE_VALID` is cleared. That the pass registers
and SNAP keep what they held is the model's choice for values that are never read again (DESIGN CHOICE, log entry 7). -/
def raiseBusError (s : State) : State :=
  { s with
    st := Config.drawWords8 s.draws
    draws := s.draws + 8
    status := statusCompleted (some .busError) { s.status with stateValid := false } }

/-- The initialisation that INIT and HASH make (R97, R134 step 3). -/
def initialiseState (s : State) : State :=
  { s with st := s.params.initStore.words, dg := #v[0, 0, 0, 0], status := statusInitialised s.status }

/-- `expand(s)` (R99). -/
def expandSeed (s : Word32) : Vector Word32 4 :=
  #v[seedC0 - s, s + 1, ~~~(s - 1), (s + 1) * seedC3]

/-- The seed expansion that SEEDX and HASH make (R101, R134 step 2). -/
def expandSeedBuffer (s : State) : State :=
  { s with sb := expandSeed s.seed, status := statusSeedExpanded s.status }

/-- `fin(ST)` (R130). -/
def finWord (st : Words) : Word64 := 0 - st[2] - st[3] - st[6] - st[7]

/-- The finalisation that FINAL and HASH make (R131, R134 step 7). -/
def finaliseState (s : State) : State :=
  { s with dg := #v[finWord s.st, 0, 0, 0], status := statusFinalised s.status }

/-- Reset (R170, R171): every register takes the value of R46, the unspecified ones free values (R47); the command in flight is
abandoned. Message memory and the parameters are not the block's registers and stay. -/
def resetBlock (s : State) : State :=
  { s with
    st := Config.drawWords8 s.draws
    sb := Config.drawWords4 (s.draws + 8)
    dg := #v[0, 0, 0, 0]
    seed := 0
    msgLen := 0
    msgAddr := 0
    status := Status.zero
    cur := Config.draw 32 (s.draws + 12)
    pass := Pass.drawn (s.draws + 13)
    snap := Config.drawWords8 (s.draws + 19)
    raced := []
    draws := s.draws + 27 }

end Sys2Proof.Machine
end

