-- ==== Sys2Proof/Machine/Operands.lean ====
section
/-! DEFINITION. The operands of the commands (30_encoding.md R73): the pivot of MIX, the message that `MSG_ADDR` and `MSG_LEN` name,
its argument checks (60_exceptions.md R149), and the three data sources of an absorption pass (43_absorption.md R122, R124, R126). -/

namespace Sys2Proof.Machine

/-- The mixer pivot of an operand field (R73): none where it names no legal pivot (R77). -/
def mixPivot (a : BitVec 3) : Option (Fin 7) :=
  if h : a.toNat < 7 then some ⟨a.toNat, h⟩ else none

/-- `L = sint32(MSG_LEN)` (R27). -/
def msgLength (s : State) : Int := s.msgLen.toInt

/-- The number of message bytes, for a length that is not negative (R27). -/
def msgCount (s : State) : Nat := (msgLength s).toNat

/-- Whether `n` addresses from `base` lie in the message range `[MSG_ADDR, MSG_ADDR + L)` (R51, R66). -/
def inMessage (s : State) (base n : Nat) : Bool :=
  decide (n = 0 ∨ (s.msgAddr.toNat ≤ base ∧ base + n ≤ s.msgAddr.toNat + msgCount s))

/-- The argument checks of ABSM and HASH, in order (R122, R134, R149). -/
def messageInvalid (s : State) : Bool :=
  decide (msgLength s < 0) ||
    (decide (0 < msgLength s) && decide (s.msgAddr = nullAddr)) ||
    (decide (0 < msgLength s) && decide (memSize s.params < s.msgAddr.toNat + msgCount s))

/-- Whether the message lies where reads have side effects or are not idempotent (R61). -/
def messageNotIdempotent (s : State) : Bool :=
  meetsSideEffects s.params s.msgAddr.toNat (msgCount s)

/-- Whether a read of the message byte at address `a` is a free draw: the host wrote that byte while the command runs, or the
message range overlaps the register window (R66; log entry 5). -/
def messageRaced (s : State) (a : Nat) : Bool :=
  s.raced.contains a || meetsWindow s.params s.msgAddr.toNat (msgCount s)

/-- Message byte `n`, `MemRead(MSG_ADDR + n, 1)` (R15, R122): none where the read raises BUS_ERROR (R151), a free draw where it
races (R66), and otherwise the byte as the host last wrote it (R65). -/
def messageByte (s : State) (n : Nat) : Option Byte :=
  if memAdmits s.params (s.msgAddr.toNat + n) then
    if messageRaced s (s.msgAddr.toNat + n) then some (Config.draw 8 (s.draws + n))
    else some (Memory.read s.mem (s.msgAddr.toNat + n))
  else none

/-- Byte `n` of the seed buffer as the data of a pass (R124). -/
def seedbufByte (sb : Vector Word32 4) (n : Nat) : Option Byte := some (sbByte sb n)

/-- Byte `n` of the snapshot as the data of a pass (R126). -/
def snapByte (snap : Words) (n : Nat) : Option Byte := some (stByte snap n)

/-- `MemRead(a, n)` and its like, byte by byte from byte `a` of the data (R15): none if one of the byte reads raises an error. -/
def readBytes (d : Nat → Option Byte) : Nat → Nat → Option (List Byte)
  | _, 0 => some []
  | a, n + 1 =>
    match d a with
    | none => none
    | some b =>
      match readBytes d (a + 1) n with
      | none => none
      | some bs => some (b :: bs)

end Sys2Proof.Machine
end

