-- ==== Sys2Proof/Machine/Mixer.lean ====
section
/-! DEFINITION. The mixer (42_mixer.md) and the command MIX. -/

namespace Sys2Proof.Machine

/-- The half-step `f(x) = rotr64(x * P, 23) * Q` (R110). -/
def mixHalf (x : Word64) : Word64 := rotr64 (x * mixP) rotWord * mixQ

/-- `mix(A)` (R106): its three steps in order, each seeing what the one before wrote. -/
def mix (a : Fin 7) (st : Words) : Words :=
  let s1 := st.set a.val (mixHalf st[a.val])
  let s2 := s1.set (a.val + 1) (s1[a.val + 1] ^^^ s1[a.val])
  s2.set (a.val + 1) (mixHalf s2[a.val + 1])

/-- A run of mixer calls, in order (R117, R121). -/
def mixRun (as : List (Fin 7)) (st : Words) : Words := as.foldl (fun x a => mix a x) st

/-- `MIX A` (R107); an illegal pivot raises BAD_OPERAND before the State is asked for (R77, R152). -/
def execMix (a : BitVec 3) (s : State) : Host.Outcome State Fault Refusal :=
  match mixPivot a with
  | none => .next (raiseError .badOperand s)
  | some A =>
    if s.status.stateValid then .next (completeCommand { s with st := mix A s.st })
    else .next (raiseError .stateNotValid s)

end Sys2Proof.Machine
end

