-- ==== Sys2Proof/Machine/Absorption.lean ====
section
/-! DEFINITION. The absorption pass (43_absorption.md R112 to R121, R129) and the commands ABSM, ABSS and ABSX. -/

namespace Sys2Proof.Machine

/-- What an absorption pass works on: the State and the pass registers (R42). -/
structure Pipe where
  st : Words
  pass : Pass
  deriving DecidableEq, Repr

/-- The end of a part of a pass: its pipeline, or the pipeline as it stood when a data read raised BUS_ERROR (R151). -/
abbrev PipeEnd := Except Pipe Pipe

/-- The start of a pass of `len` bytes (R113). The rule does not set IDX: that it starts at 0, and so is 0 after a pass with no
element, is the model's choice for a value that is never read (DESIGN CHOICE, log entry 6). -/
def startPass (p : Config.Params) (len : Nat) (st : Words) : Pipe :=
  { st := st
    pass := { ctr := p.wordCtrInit, c8 := p.byteCtrInit, sidx := 0, idx := 0, len := len, phase := .word } }

/-- The pivot of the gated mix, `SIDX - 1` (R116). -/
def gatedPivot (sidx : Fin 8) : Fin 7 := ⟨sidx.val - 1, by omega⟩

/-- The word step on data word `w` at index `i`: accumulate (R114), counter (R115), gated mix and cursor (R116). -/
def wordStepOn (w : Word64) (i : Nat) (x : Pipe) : Pipe :=
  let k := x.pass.sidx
  let st1 := x.st.set k.val (x.st[k.val] + rotr64 (w + BitVec.ofNat 64 i + x.pass.ctr + 1) rotWord)
  { st := if k.val % 2 = 1 then mix (gatedPivot k) st1 else st1
    pass := { x.pass with ctr := x.pass.ctr + (~~~w + 1), sidx := k + 1 } }

/-- The pipeline at element `i` of a phase (R42, R87). -/
def atElement (ph : Phase) (i : Nat) (x : Pipe) : Pipe :=
  { x with pass := { x.pass with phase := ph, idx := i } }

/-- The word step at index `i`: data word `D64(i)` is read once, byte by byte, before anything is written (R112, R114). -/
def wordStep (d : Nat → Option Byte) (i : Nat) (x : Pipe) : PipeEnd :=
  match readBytes d (8 * i) 8 with
  | none => .error (atElement .word i x)
  | some bs => .ok (wordStepOn (le64 bs) i (atElement .word i x))

/-- The word phase: the word steps 0 to n - 1 in order (R114). -/
def wordPhase (d : Nat → Option Byte) : Nat → Pipe → PipeEnd
  | 0, x => .ok x
  | n + 1, x =>
    match wordPhase d n x with
    | .error y => .error y
    | .ok y => wordStep d n y

/-- The word flush (R117). -/
def wordFlush (x : Pipe) : Pipe :=
  { st := mixRun [1, 3, 5] x.st, pass := { x.pass with phase := .wflush } }

/-- The pivot of the byte step, `j mod 7` (R120). -/
def bytePivot (j : Nat) : Fin 7 := ⟨j % 7, Nat.mod_lt _ (by decide)⟩

/-- The byte step on data byte `b` at index `j`: accumulate (R118), counter (R119), mix (R120). -/
def byteStepOn (b : Byte) (j : Nat) (x : Pipe) : Pipe :=
  let st1 := setStByte x.st (j % 64)
    (stByte x.st (j % 64) + rotr8 (b + BitVec.ofNat 8 j + x.pass.c8 + 1) rotByte)
  { st := mix (bytePivot j) st1
    pass := { x.pass with c8 := x.pass.c8 + (~~~b + 1) } }

/-- The byte step at index `j`: the data byte is read once (R118). -/
def byteStep (d : Nat → Option Byte) (j : Nat) (x : Pipe) : PipeEnd :=
  match d j with
  | none => .error (atElement .byte j x)
  | some b => .ok (byteStepOn b j (atElement .byte j x))

/-- The byte phase: the byte steps at `start`, .., `start + n - 1` in order (R118). -/
def bytePhase (d : Nat → Option Byte) (start : Nat) : Nat → Pipe → PipeEnd
  | 0, x => .ok x
  | n + 1, x =>
    match bytePhase d start n x with
    | .error y => .error y
    | .ok y => byteStep d (start + n) y

/-- The closing flush (R121), after which the pass is done. -/
def closingFlush (x : Pipe) : Pipe :=
  { st := mixRun [0, 1, 2, 3, 4, 5, 6] x.st, pass := { x.pass with phase := .done } }

/-- `absorb(D, L)` (R112, R129) on the State `st`: the four parts in order. -/
def absorb (p : Config.Params) (d : Nat → Option Byte) (len : Nat) (st : Words) : PipeEnd :=
  match wordPhase d (len / 8) (startPass p len st) with
  | .error x => .error x
  | .ok x =>
    match bytePhase d (8 * (len / 8)) (len % 8) (wordFlush x) with
    | .error y => .error y
    | .ok y => .ok (closingFlush y)

/-- The pipeline's State and registers put back. -/
def writePipe (x : Pipe) (s : State) : State := { s with st := x.st, pass := x.pass }

/-- The message pass (R122, R134 step 4): the machine after it, or, where a read raised BUS_ERROR, as the raising found it. Each of
the L byte reads has its own draw, should it race (R66). -/
def absorbMessage (s : State) : Except State State :=
  match absorb s.params (messageByte s) (msgCount s) s.st with
  | .error x => .error { writePipe x s with draws := s.draws + msgCount s }
  | .ok x => .ok { writePipe x s with draws := s.draws + msgCount s }

/-- The pass over the seed buffer's 16 bytes, which reads no memory and cannot fail (R124, R134 step 5). -/
def absorbSeedBuffer (s : State) : State :=
  match absorb s.params (seedbufByte s.sb) 16 s.st with
  | .error x => writePipe x s
  | .ok x => writePipe x s

/-- The pass over the State's own image, from the snapshot taken before any write (R126, R134 step 6). That SNAP keeps the
copied image after the pass, and the pass registers their last values, is the model's choice for values that are never read again
(DESIGN CHOICE, log entry 6). -/
def absorbSelf (s : State) : State :=
  match absorb s.params (snapByte s.st) 64 s.st with
  | .error x => writePipe x { s with snap := s.st }
  | .ok x => writePipe x { s with snap := s.st }

/-- `ABSM` (R122). -/
def execAbsm (s : State) : Host.Outcome State Fault Refusal :=
  if s.status.stateValid = false then .next (raiseError .stateNotValid s)
  else if messageInvalid s then .next (raiseError .invalidArgument s)
  else if messageNotIdempotent s then .refused .messageNotIdempotent
  else
    match absorbMessage s with
    | .error t => .next (raiseBusError t)
    | .ok t => .next (completeCommand t)

/-- `ABSS` (R124). -/
def execAbss (s : State) : Host.Outcome State Fault Refusal :=
  if s.status.stateValid = false then .next (raiseError .stateNotValid s)
  else if s.status.seedbufValid = false then .next (raiseError .seedbufNotValid s)
  else .next (completeCommand (absorbSeedBuffer s))

/-- `ABSX` (R126). -/
def execAbsx (s : State) : Host.Outcome State Fault Refusal :=
  if s.status.stateValid = false then .next (raiseError .stateNotValid s)
  else .next (completeCommand (absorbSelf s))

end Sys2Proof.Machine
end

