-- ==== Sys2Proof/Machine/Finalize.lean ====
section
/-! DEFINITION. The finalizer and the hash entry point (44_finalize_hash.md): the commands FINAL and HASH. -/

namespace Sys2Proof.Machine

/-- `FINAL` (R131). -/
def execFinal (s : State) : Host.Outcome State Fault Refusal :=
  if s.status.stateValid = false then .next (raiseError .stateNotValid s)
  else .next (completeCommand (finaliseState s))

/-- What a BUS_ERROR inside HASH clears beside what every BUS_ERROR clears (R136, R154). -/
def dropSeedBuffer (s : State) : State :=
  { s with status := { s.status with seedbufValid := false } }

/-- `HASH` (R134): the arguments are checked before any state is changed (R135); then the steps 2 to 7. -/
def execHash (s : State) : Host.Outcome State Fault Refusal :=
  if messageInvalid s then .next (raiseError .invalidArgument s)
  else if messageNotIdempotent s then .refused .messageNotIdempotent
  else
    match absorbMessage (initialiseState (expandSeedBuffer s)) with
    | .error t => .next (raiseBusError (dropSeedBuffer t))
    | .ok t => .next (completeCommand (finaliseState (absorbSelf (absorbSeedBuffer t))))

end Sys2Proof.Machine
end

