-- ==== Sys2Proof/Machine/InitSeed.lean ====
section
/-! DEFINITION. The commands NOP (40_command_sequencing.md R92), INIT (41_init_seed.md R97) and SEEDX (R101). -/

namespace Sys2Proof.Machine

/-- `NOP` (R92): no statement; the command completes at once. -/
def execNop (s : State) : Host.Outcome State Fault Refusal := .next (completeCommand s)

/-- `INIT` (R97). -/
def execInit (s : State) : Host.Outcome State Fault Refusal := .next (completeCommand (initialiseState s))

/-- `SEEDX` (R101). -/
def execSeedx (s : State) : Host.Outcome State Fault Refusal := .next (completeCommand (expandSeedBuffer s))

end Sys2Proof.Machine
end

