-- ==== Sys2Proof/Machine/Normalize.lean ====
section
/-! DEFINITION. Seed normalization (45_seed_normalize.md) and the command NORM. -/

namespace Sys2Proof.Machine

/-- The loop of `normalize` (R140), with a bound on the number of increments. -/
def normalizeLoop (b : Config.BadSeeds) : Nat → Word32 → Word32
  | 0, s => s
  | n + 1, s => if isBadSeed b s then normalizeLoop b n (s + 1) else s

/-- `normalize(s)` (R140): at most `|BAD_SEEDS|` increments are made (R141). -/
def normalize (b : Config.BadSeeds) (s : Word32) : Word32 := normalizeLoop b b.members.length s

/-- `NORM` (R142). -/
def execNorm (s : State) : Host.Outcome State Fault Refusal :=
  .next (completeCommand { s with seed := normalize s.params.badSeeds s.seed })

end Sys2Proof.Machine
end

