-- ==== Sys2Proof/Machine/Dispatch.lean ====
section
/-! DEFINITION. One arm for each command: its meaning, from the accepted command to its completion (40_command_sequencing.md R88). -/

namespace Sys2Proof.Machine

def exec (i : Instr) (s : State) : Host.Outcome State Fault Refusal :=
  match i with
  | .nop => Sys2Proof.Machine.execNop s
  | .init => Sys2Proof.Machine.execInit s
  | .seedx => Sys2Proof.Machine.execSeedx s
  | .mix a => Sys2Proof.Machine.execMix a s
  | .absm => Sys2Proof.Machine.execAbsm s
  | .abss => Sys2Proof.Machine.execAbss s
  | .absx => Sys2Proof.Machine.execAbsx s
  | .final => Sys2Proof.Machine.execFinal s
  | .hash => Sys2Proof.Machine.execHash s
  | .norm => Sys2Proof.Machine.execNorm s

end Sys2Proof.Machine
end

