-- ==== Sys2Proof/Machine/Window.lean ====
section
/-! DEFINITION. The register window as the host reads and writes it (10_state.md R36 to R41), and the host's and the platform's other
moves (60_exceptions.md R169, 70_reset_and_hazards.md R170). -/

namespace Sys2Proof.Machine

/-- The offset of a register in the window (R36). -/
def regOffset : Reg → Nat
  | .cmd => 0x000
  | .status => 0x004
  | .seed => 0x008
  | .msgLen => 0x00C
  | .msgAddrLo => 0x010
  | .msgAddrHi => 0x014
  | .digestLo k => 0x018 + 8 * k.val
  | .digestHi k => 0x01C + 8 * k.val
  | .stLo k => 0x040 + 8 * k.val
  | .stHi k => 0x044 + 8 * k.val
  | .sb k => 0x080 + 4 * k.val

/-- An index below `n`, if it is one. -/
def index? (n k : Nat) : Option (Fin n) := if h : k < n then some ⟨k, h⟩ else none

/-- The register at word `q` of the window, that is at offset 4q (R36); none at a reserved offset (R41). -/
def regAtWord (q : Nat) : Option Reg :=
  if q = 0 then some .cmd
  else if q = 1 then some .status
  else if q = 2 then some .seed
  else if q = 3 then some .msgLen
  else if q = 4 then some .msgAddrLo
  else if q = 5 then some .msgAddrHi
  else if q < 14 then (index? 4 ((q - 6) / 2)).map (if q % 2 = 0 then .digestLo else .digestHi)
  else if q < 16 then none
  else if q < 32 then (index? 8 ((q - 16) / 2)).map (if q % 2 = 0 then .stLo else .stHi)
  else (index? 4 (q - 32)).map .sb

/-- A window word that the engine may be changing: a free draw while BUSY = 1 (R37 to R39). -/
def windowValue (s : State) (v : Word32) : Word32 :=
  if s.status.busy then Config.draw 32 s.draws else v

/-- What a host read of a register returns (R36 to R40). -/
def regValue (s : State) : Reg → Word32
  | .cmd => 0
  | .status => statusWord s.status
  | .seed => s.seed
  | .msgLen => s.msgLen
  | .msgAddrLo => loHalf s.msgAddr
  | .msgAddrHi => hiHalf s.msgAddr
  | .digestLo k => windowValue s (loHalf s.dg[k])
  | .digestHi k => windowValue s (hiHalf s.dg[k])
  | .stLo k => windowValue s (if s.status.stateValid then loHalf s.st[k] else 0)
  | .stHi k => windowValue s (if s.status.stateValid then hiHalf s.st[k] else 0)
  | .sb k => windowValue s (if s.status.seedbufValid then s.sb[k] else 0)

/-- A host read of the register at word `q` of the window. A reserved offset reads 0 (R41). Every read has its own draw. -/
def readWindow (q : Nat) (s : State) : State :=
  match regAtWord q with
  | none => { s with hostRead := 0 }
  | some r => { s with hostRead := regValue s r, draws := s.draws + 1 }

/-- A host write that finds the engine busy is dropped and sets OVR (R32). -/
def dropWrite (s : State) : State := { s with status := statusOverrun s.status }

/-- The command word `c` presented to an idle engine: accepted and decoded in one step; a word that does not decode ends its
command at once (R86, R88). -/
def presentCommand (c : Word32) (s : State) : State :=
  match decode c with
  | .ok _ => acceptCommand c s
  | .error e => raiseError e (acceptCommand c s)

/-- What a write to a register of the window does while the engine is idle (R26 to R28, R40); the others are read-only (R36). -/
def writeIdle (r : Reg) (v : Word32) (s : State) : State :=
  match r with
  | .cmd => presentCommand v s
  | .seed => { s with seed := v }
  | .msgLen => { s with msgLen := v }
  | .msgAddrLo => { s with msgAddr := maskMsgAddr s.params (hiHalf s.msgAddr ++ v) }
  | .msgAddrHi => { s with msgAddr := maskMsgAddr s.params (v ++ loHalf s.msgAddr) }
  | .status => s
  | .digestLo _ => s
  | .digestHi _ => s
  | .stLo _ => s
  | .stHi _ => s
  | .sb _ => s

/-- Whether a register takes host writes (R36). -/
def regWritable : Reg → Bool
  | .cmd => true
  | .seed => true
  | .msgLen => true
  | .msgAddrLo => true
  | .msgAddrHi => true
  | .status => false
  | .digestLo _ => false
  | .digestHi _ => false
  | .stLo _ => false
  | .stHi _ => false
  | .sb _ => false

/-- A host write of `v` to a register of the window (R32, R36). -/
def writeReg (r : Reg) (v : Word32) (s : State) : State :=
  if regWritable r && s.status.busy then dropWrite s else writeIdle r v s

/-- A host write at word `q` of the window; a reserved offset ignores it (R41). -/
def writeWindow (q : Nat) (v : Word32) (s : State) : State :=
  match regAtWord q with
  | none => s
  | some r => writeReg r v s

/-- A host access at a host address: the word of the window it names, if it is a 32-bit access at a multiple of 4 (R53). -/
def accessWord (p : Config.Params) (addr bytes : Nat) : Except Fault Nat :=
  match windowOffset p addr with
  | none => .error .hostAccessOutsideWindow
  | some off => if bytes = 4 ∧ off % 4 = 0 then .ok (off / 4) else .error .hostAccessNotWord

/-- A host write to the window (R53). -/
def hostWrite (addr bytes : Nat) (v : Word32) (s : State) : Host.Outcome State Fault Refusal :=
  match accessWord s.params addr bytes with
  | .error f => .fault f
  | .ok q => .next (writeWindow q v s)

/-- A host read of the window (R53). -/
def hostReadAt (addr bytes : Nat) (s : State) : Host.Outcome State Fault Refusal :=
  match accessWord s.params addr bytes with
  | .error f => .fault f
  | .ok q => .next (readWindow q s)

/-- The addresses of message bytes that a host write touches while the engine is busy: they race with the command (R66). -/
def racedBy (s : State) (addr n : Nat) : List Nat :=
  if s.status.busy then (List.range n).map (addr + ·) else []

/-- Host writes to message memory (R82, R169). The bytes exist below 2^ADDR_W only (R51), and where the register window lies in
that space its registers take no byte writes (R53). While the engine is busy the host may write no byte (R169); one of the message
range that it writes against its duty races with the command (R66), and any other write has no step (log entry 18). -/
def hostMem (addr : Nat) (data : List Byte) (s : State) : Host.Outcome State Fault Refusal :=
  if memSize s.params < addr + data.length then .fault .hostMemOutOfRange
  else if meetsWindow s.params addr data.length then .fault .hostAccessNotWord
  else if s.status.busy && !inMessage s addr data.length then .fault .hostMemWhileBusy
  else .next { s with mem := Memory.writeAll s.mem addr data, raced := racedBy s addr data.length ++ s.raced }

/-- The command word that the engine's turn executes (R86): CUR. The block fetches nothing (R59). -/
def fetchCommand (s : State) : Word32 := s.cur

end Sys2Proof.Machine
end

