-- ==== Sys2Proof/Machine/Step.lean ====
section
/-! DEFINITION. One step of the block and its surroundings: the next input in order, or the engine's own turn. -/

namespace Sys2Proof.Machine

/-- The engine's turn (R85 to R91): busy, it runs the accepted command to its completion in one transition (R90); idle, it does
nothing. A word that does not decode raises its error (R88). -/
def engineTurn (s : State) : Host.Outcome State Fault Refusal :=
  if s.status.busy then
    match decode (fetchCommand s) with
    | .ok i => exec i s
    | .error e => .next (raiseError e s)
  else .next s

/-- One step. With no input left, the engine takes its turn, so that a busy engine completes (R91). A `poll` gives the busy engine
its turn, and reads STATUS when it is idle (R82). -/
def step (s : State) : Host.Outcome State Fault Refusal :=
  match s.inputs with
  | [] => engineTurn s
  | .engine :: rest => engineTurn { s with inputs := rest }
  | .write addr bytes v :: rest => hostWrite addr bytes v { s with inputs := rest }
  | .read addr bytes :: rest => hostReadAt addr bytes { s with inputs := rest }
  | .poll :: rest => if s.status.busy then engineTurn s else .next (readWindow 1 { s with inputs := rest })
  | .mem addr data :: rest => hostMem addr data { s with inputs := rest }
  | .reset :: rest => .next (resetBlock { s with inputs := rest })

/-- The command word with bits `w`, accepted (R86), with the engine's turn next: the very next step runs it. -/
def State.withFetchWord (s : State) (nbits w : Nat) : State :=
  { acceptCommand (tableWord nbits w) s with inputs := .engine :: s.inputs }

end Sys2Proof.Machine
end

