-- ==== Sys2Proof/Machine/HostProgram.lean ====
section
/-! DEFINITION. The written forms of commands and host programs (30_encoding.md R81 to R84): their syntax, the expansions of the
pseudo-instructions, the inputs a program gives the block, and listings. -/

namespace Sys2Proof.Machine

/-- The host operations of R82. -/
inductive HostOp where
  | wr (r : Reg) (v : Word32)
  | rd (r : Reg)
  | poll
  | mem (addr : Nat) (data : List Byte)
  deriving DecidableEq, Repr

/-- The 64-bit names that `rd64` takes (R83). -/
inductive Wide where
  | digest (k : Fin 4)
  | st (k : Fin 8)
  deriving DecidableEq, Repr

/-- A line of a host program: an operation (R82) or a pseudo-instruction (R83). -/
inductive HostLine where
  | op (o : HostOp)
  | command (i : Instr)
  | wr64 (v : Word64)
  | rd64 (n : Wide)
  | mixall
  | hashseq
  deriving DecidableEq, Repr

/-- A command mnemonic alone on a line: `wr CMD, <its word>` then `poll` (R83). -/
def expandCommand (i : Instr) : List HostOp := [.wr .cmd (encode i), .poll]

/-- The expansion of a line (R83). -/
def expandLine : HostLine → List HostOp
  | .op o => [o]
  | .command i => expandCommand i
  | .wr64 v => [.wr .msgAddrLo (loHalf v), .wr .msgAddrHi (hiHalf v)]
  | .rd64 (.digest k) => [.rd (.digestLo k), .rd (.digestHi k)]
  | .rd64 (.st k) => [.rd (.stLo k), .rd (.stHi k)]
  | .mixall => [.mix 0, .mix 1, .mix 2, .mix 3, .mix 4, .mix 5, .mix 6].flatMap expandCommand
  | .hashseq => [.init, .seedx, .absm, .abss, .absx, .final].flatMap expandCommand

/-- The input that a host operation gives the block: its register is at `CSR_BASE` plus the register's offset (R36, R82). -/
def opInput (p : Config.Params) : HostOp → Input
  | .wr r v => .write (p.csrBase + regOffset r) 4 v
  | .rd r => .read (p.csrBase + regOffset r) 4
  | .poll => .poll
  | .mem a data => .mem a data

/-- The inputs of a host program, in order (R82, R83). When the engine acts between them the spec leaves open: that this list gives
it no turn but at a `poll` and after the last operation is the model's choice (DESIGN CHOICE, log entry 3). `programSchedule` has
every other choice. -/
def programInputs (p : Config.Params) (ls : List HostLine) : List Input :=
  (ls.flatMap expandLine).map (opInput p)

/-- Whether a list of inputs is a run of a host program: its operations in order, with engine turns anywhere between them (R82, R91,
R94; program P7 of 95_test_vectors.md). -/
def programSchedule (p : Config.Params) (ls : List HostLine) (xs : List Input) : Bool :=
  xs.filter (· != .engine) == programInputs p ls

/-- A line of a listing: the operation and, for a `wr CMD`, its command word (R84). -/
def listingEntry (o : HostOp) : HostOp × Option Word32 :=
  match o with
  | .wr .cmd v => (o, some v)
  | o => (o, none)

/-- The listing of a host program (R84). -/
def listing (ls : List HostLine) : List (HostOp × Option Word32) := (ls.flatMap expandLine).map listingEntry

/-- A hexadecimal digit. -/
def hexDigit (d : Nat) : Char := ("0123456789ABCDEF".toList[d]?).getD '?'

/-- A command word in hex, as a listing shows it (R84). -/
def hexWord (v : Word32) : List Char :=
  [28, 24, 20, 16, 12, 8, 4, 0].map (fun k => hexDigit (v.toNat / 2 ^ k % 16))

/-- A decimal digit for an index below ten. -/
def digitText (k : Nat) : List Char := [hexDigit k]

/-- The written form of a command: the mnemonic in lower case, with the pivot of `mix` in decimal (R81). -/
def commandText : Instr → List Char
  | .nop => "nop".toList
  | .init => "init".toList
  | .seedx => "seedx".toList
  | .mix a => "mix ".toList ++ digitText a.toNat
  | .absm => "absm".toList
  | .abss => "abss".toList
  | .absx => "absx".toList
  | .final => "final".toList
  | .hash => "hash".toList
  | .norm => "norm".toList

/-- The name of a register (R36, R82). -/
def regText : Reg → List Char
  | .cmd => "CMD".toList
  | .status => "STATUS".toList
  | .seed => "SEED".toList
  | .msgLen => "MSG_LEN".toList
  | .msgAddrLo => "MSG_ADDR_LO".toList
  | .msgAddrHi => "MSG_ADDR_HI".toList
  | .digestLo k => "DIGEST".toList ++ digitText k.val ++ "_LO".toList
  | .digestHi k => "DIGEST".toList ++ digitText k.val ++ "_HI".toList
  | .stLo k => "ST".toList ++ digitText k.val ++ "_LO".toList
  | .stHi k => "ST".toList ++ digitText k.val ++ "_HI".toList
  | .sb k => "SB".toList ++ digitText k.val

/-- The name that `rd64` takes for a 64-bit value (R83). -/
def wideText : Wide → List Char
  | .digest k => "DIGEST".toList ++ digitText k.val
  | .st k => "ST".toList ++ digitText k.val

/-- Every register of the window. -/
def allRegs : List Reg :=
  [.cmd, .status, .seed, .msgLen, .msgAddrLo, .msgAddrHi] ++
    [0, 1, 2, 3].flatMap (fun k => [.digestLo k, .digestHi k]) ++
    [0, 1, 2, 3, 4, 5, 6, 7].flatMap (fun k => [.stLo k, .stHi k]) ++
    [0, 1, 2, 3].map .sb

/-- Every name that `rd64` takes. -/
def allWides : List Wide := [0, 1, 2, 3].map .digest ++ [0, 1, 2, 3, 4, 5, 6, 7].map .st

/-- Whether a character separates the words of a line. -/
def isSeparator (c : Char) : Bool := c == ' ' || c == ',' || c == '\t'

/-- A word put before the words already found, if there is one. -/
def consToken (word : List Char) (rest : List (List Char)) : List (List Char) :=
  if word.isEmpty then rest else word.reverse :: rest

/-- The words of a line, with the word being read held reversed; a comment runs from `;` to the end of the line (R81). -/
def tokensFrom (word : List Char) : List Char → List (List Char)
  | [] => consToken word []
  | c :: cs =>
    if c = ';' then consToken word []
    else if isSeparator c then consToken word (tokensFrom [] cs)
    else tokensFrom (c :: word) cs

/-- The value of a digit in a base up to sixteen. -/
def digitValue (base : Nat) (c : Char) : Option Nat :=
  let n := c.toNat
  let v := if 48 ≤ n ∧ n ≤ 57 then some (n - 48)
    else if 65 ≤ n ∧ n ≤ 70 then some (n - 55)
    else if 97 ≤ n ∧ n ≤ 102 then some (n - 87)
    else none
  v.filter (· < base)

/-- The value of digits, most significant first, after the value `acc` of those before. -/
def digitsValue (base : Nat) : Nat → List Char → Option Nat
  | acc, [] => some acc
  | acc, c :: cs => (digitValue base c).bind (fun d => digitsValue base (acc * base + d) cs)

/-- A number in decimal, or in hexadecimal after `0x` (R82). -/
def parseNumber : List Char → Option Nat
  | [] => none
  | ['0', 'x'] => none
  | '0' :: 'x' :: cs => digitsValue 16 0 cs
  | cs => digitsValue 10 0 cs

/-- A number that fits in `w` bits. -/
def parseBits (w : Nat) (t : List Char) : Option (BitVec w) :=
  ((parseNumber t).filter (· < 2 ^ w)).map (BitVec.ofNat w)

/-- Bytes, one number each (R82). -/
def parseBytes : List (List Char) → Option (List Byte)
  | [] => some []
  | t :: ts => (parseBits 8 t).bind (fun b => (parseBytes ts).map (b :: ·))

/-- The pivot that `mix` takes: a decimal number 0 .. 6; the assembler refuses any other (R81). -/
def parsePivot (t : List Char) : Option (BitVec 3) :=
  ((digitsValue 10 0 t).filter (fun n => decide (n ≤ 6) && !t.isEmpty)).map (BitVec.ofNat 3)

/-- The commands with no operand, for the assembler (R81). -/
def plainCommands : List Instr := [.nop, .init, .seedx, .absm, .abss, .absx, .final, .hash, .norm]

/-- The command that the words of a line spell (R81): an operand on any command but `mix` is refused. -/
def parseCommand : List (List Char) → Option Instr
  | [m] => plainCommands.find? (fun i => commandText i == m)
  | [m, t] => if m = "mix".toList then (parsePivot t).map .mix else none
  | _ => none

/-- The register that a word names (R82). -/
def parseReg (t : List Char) : Option Reg := allRegs.find? (fun r => regText r == t)

/-- The 64-bit value that a word names (R83). -/
def parseWide (t : List Char) : Option Wide := allWides.find? (fun n => wideText n == t)

/-- The line that its words spell (R81 to R83). -/
def parseTokens (ts : List (List Char)) : Option HostLine :=
  match ts with
  | [] => none
  | m :: args =>
    if m = "poll".toList then (if args.isEmpty then some (.op .poll) else none)
    else if m = "mixall".toList then (if args.isEmpty then some .mixall else none)
    else if m = "hashseq".toList then (if args.isEmpty then some .hashseq else none)
    else if m = "wr".toList then
      match args with
      | [r, v] => (parseReg r).bind (fun r => (parseBits 32 v).map (fun v => .op (.wr r v)))
      | _ => none
    else if m = "rd".toList then
      match args with
      | [r] => (parseReg r).map (fun r => .op (.rd r))
      | _ => none
    else if m = "mem".toList then
      match args with
      | a :: bs => (parseNumber a).bind (fun a => (parseBytes bs).map (fun bs => .op (.mem a bs)))
      | [] => none
    else if m = "wr64".toList then
      match args with
      | [n, v] => if n = "MSG_ADDR".toList then (parseBits 64 v).map .wr64 else none
      | _ => none
    else if m = "rd64".toList then
      match args with
      | [n] => (parseWide n).map .rd64
      | _ => none
    else (parseCommand ts).map .command

/-- The assembler: the line that a text spells, if it spells one (R81 to R83). -/
def assemble (line : List Char) : Option HostLine := parseTokens (tokensFrom [] line)

end Sys2Proof.Machine
end

