-- ==== Sys2Proof/Safety.lean ====
section
/-! DEFINITION. The terms claims use: the invariant of every step, the conditions under which the message commands run without an
error, commands issued one after another, and the absorption and the hash as functions of plain byte lists, written from
43_absorption.md R129 and 44_finalize_hash.md R134 apart from the engine's own pipeline. -/

namespace Sys2Proof.Machine

/-- What holds at reset and after every step. -/
structure State.Inv (s : State) : Prop where
  /-- Message memory keeps its canonical form. -/
  memCanonical : Memory.wf s.mem = true
  /-- Message memory lies below 2^ADDR_W (R51). -/
  memBounded : ∀ c ∈ s.mem, c.1 < 2 ^ s.params.addrW
  /-- Bits 63 .. ADDR_W of `MSG_ADDR` are zero (R28). -/
  addrBounded : s.msgAddr.toNat < 2 ^ s.params.addrW
  /-- `DG[1]`, `DG[2]` and `DG[3]` are zero (R25). -/
  digestHighZero : s.dg[1] = 0 ∧ s.dg[2] = 0 ∧ s.dg[3] = 0
  /-- `DG[0]` is zero unless it is a digest (R97, R131, R136). -/
  digestClear : s.status.digestValid = false → s.dg[0] = 0
  /-- A digest and an unfinished computation do not stand beside each other (R33, R35). -/
  validExclusive : ¬ (s.status.stateValid = true ∧ s.status.digestValid = true)
  /-- Codes 7 to 15 are never produced (R147). -/
  errcodeBounded : s.status.errcode.toNat ≤ 6
  /-- `ERR` is set exactly when `ERRCODE` is not 0 (R31). -/
  errIffCode : s.status.err = true ↔ s.status.errcode ≠ 0
  /-- While a command executes, `DONE` and `ERR` are clear (R31). -/
  busyClear : s.status.busy = true → s.status.done = false ∧ s.status.err = false
  /-- The command that executes is one that decodes (R86). -/
  busyDecodes : s.status.busy = true → (decode s.cur).toOption.isSome = true
  /-- `IDX` and `LEN` are below 2^31 (R42). -/
  passBounded : s.pass.idx < 2 ^ 31 ∧ s.pass.len < 2 ^ 31

/-- The arguments that ABSM and HASH accept (R149), in the spec's terms. -/
abbrev ArgsLegal (s : State) : Prop :=
  0 ≤ s.msgLen.toInt ∧
    (0 < s.msgLen.toInt → s.msgAddr ≠ 0 ∧ s.msgAddr.toNat + s.msgLen.toInt.toNat ≤ 2 ^ s.params.addrW)

/-- Every byte of the message is at an address with `MemAdmit` (R151). -/
abbrev MessageReadable (s : State) : Prop :=
  ∀ n, n < s.msgLen.toInt.toNat → memAdmits s.params (s.msgAddr.toNat + n) = true

/-- No byte of the message lies where reads have side effects or are not idempotent (R61). -/
abbrev MessagePlain (s : State) : Prop :=
  ∀ n, n < s.msgLen.toInt.toNat → ∀ r ∈ s.params.sideEffects, inRegion r (s.msgAddr.toNat + n) = false

/-- No byte of the message was written by the host while the command runs, and none lies in the register window (R66). -/
abbrev MessageQuiet (s : State) : Prop :=
  ∀ n, n < s.msgLen.toInt.toNat →
    s.msgAddr.toNat + n ∉ s.raced ∧
      ¬ (s.params.windowShared = true ∧ inRegion (windowRegion s.params) (s.msgAddr.toNat + n) = true)

/-- The message as the host last wrote it (R65): the `L` bytes from `MSG_ADDR`. -/
def messageWritten (s : State) : List Byte :=
  (List.range s.msgLen.toInt.toNat).map (fun n => Memory.read s.mem (s.msgAddr.toNat + n))

/-- The message as the engine reads it (R65, R66): a byte that races is a free draw. -/
def messageSeen (s : State) : List Byte :=
  (List.range s.msgLen.toInt.toNat).map (fun n =>
    if messageRaced s (s.msgAddr.toNat + n) then Config.draw 8 (s.draws + n)
    else Memory.read s.mem (s.msgAddr.toNat + n))

/-- The word loop of R129 from index `i`, over the data words that are left. -/
def refWordLoop : List Word64 → Nat → Word64 → Words → Words
  | [], _, _, st => st
  | w :: ws, i, ctr, st =>
    let st1 := st.set (i % 8) (st[i % 8]'(Nat.mod_lt _ (by decide)) + rotr64 (w + BitVec.ofNat 64 i + ctr + 1) 23)
      (Nat.mod_lt _ (by decide))
    refWordLoop ws (i + 1) (ctr - w) (if i % 2 = 1 then mix ⟨i % 8 - 1, by omega⟩ st1 else st1)

/-- The byte loop of R129 from index `j`, over the data bytes that are left. -/
def refByteLoop : List Byte → Nat → Byte → Words → Words
  | [], _, _, st => st
  | b :: bs, j, c8, st =>
    refByteLoop bs (j + 1) (c8 - b)
      (mix ⟨j % 7, Nat.mod_lt _ (by decide)⟩
        (setStByte st (j % 64) (stByte st (j % 64) + rotr8 (b + BitVec.ofNat 8 j + c8 + 1) 7)))

/-- The data words `D64(0)`, `D64(1)`, .. of a byte list (R112). -/
def dataWords (data : List Byte) : List Word64 :=
  (List.range (data.length / 8)).map (fun i => le64 ((data.drop (8 * i)).take 8))

/-- `absorb(D, L)` of R129 on a byte list. -/
def absorbRef (p : Config.Params) (data : List Byte) (st : Words) : Words :=
  let st1 := refWordLoop (dataWords data) 0 p.wordCtrInit st
  let st2 := mix 5 (mix 3 (mix 1 st1))
  let st3 := refByteLoop (data.drop (8 * (data.length / 8))) (8 * (data.length / 8)) p.byteCtrInit st2
  mix 6 (mix 5 (mix 4 (mix 3 (mix 2 (mix 1 (mix 0 st3))))))

/-- The seed buffer's sixteen bytes (R102). -/
def seedBytes (sb : Vector Word32 4) : List Byte :=
  bytesLE 4 sb[0] ++ bytesLE 4 sb[1] ++ bytesLE 4 sb[2] ++ bytesLE 4 sb[3]

/-- The State at the end of step 6 of R134, from the seed and the message. -/
def hashStateRef (p : Config.Params) (seed : Word32) (data : List Byte) : Words :=
  let st4 := absorbRef p data p.initStore.words
  let st5 := absorbRef p (seedBytes #v[0xC5550690 - seed, seed + 1, ~~~(seed - 1), (seed + 1) * 0xF00DACCA]) st4
  absorbRef p (image st5) st5

/-- The digest of a message under a seed (R134, R138). -/
def digestRef (p : Config.Params) (seed : Word32) (data : List Byte) : Word64 :=
  let st := hashStateRef p seed data;
  (-(st[2] + st[3] + st[6] + st[7]))

/-- A command word written to CMD while the engine is idle, and its command run to its end (R86 to R89). -/
def issue (c : Word32) (s : State) : Host.Outcome State Fault Refusal := engineTurn (presentCommand c s)

/-- Command words issued one after another, whether or not one ends in an error. -/
def issueAll : List Word32 → State → Host.Outcome State Fault Refusal
  | [], s => .next s
  | c :: cs, s =>
    match issue c s with
    | .next t => issueAll cs t
    | .fault f => .fault f
    | .refused r => .refused r

/-- `STATUS` of a command that completed without an error (R89, R31). -/
def doneStatus (f : Status) : Status := { f with busy := false, done := true, err := false, errcode := 0 }

/-- `STATUS` of a command that completed with the error of the given number (R89, R31). -/
def failedStatus (code : BitVec 4) (f : Status) : Status :=
  { f with busy := false, done := true, err := true, errcode := code }

/-- The end of a run of a host program (R96): its last operation is performed and the engine is idle. -/
abbrev RunEnded (s : State) : Prop := s.inputs = [] ∧ s.status.busy = false

/-- The result of a run (R96): `DG[0]`, `SEED` and the `STATUS` word. -/
def runResult (s : State) : Word64 × Word32 × Word32 := (s.dg[0], s.seed, statusWord s.status)

/-- The digest of a computation as its eight exported bytes, `bytesLE_8(DG[0])` (R57, R133). -/
def digestBytes (s : State) : List Byte := bytesLE 8 s.dg[0]

/-- `INIT_STATE` of the illustrative parameters TP1 (95_test_vectors.md section 0). -/
def tp1Words : Words :=
  #v[0x1111111111111111, 0x2222222222222222, 0x3333333333333333, 0x4444444444444444,
    0x5555555555555555, 0x6666666666666666, 0x7777777777777777, 0x8888888888888888]

/-- The illustrative bad seeds BS1 (95_test_vectors.md section 0). -/
def bs1Members : List Word32 := [0x00000000, 0x00000005, 0x00000006, 0x00000007, 0xFFFFFFFF]

end Sys2Proof.Machine
end

