-- ==== Sys2Proof/Certificates/Slice0/Obligations.lean ====
section
/-! DEFINITION. What is claimed of the model, for the provers. Each docstring names the rules of spec/ the statement formalises. -/

open Sys2Proof Sys2Proof.Machine

/-! ## Encoding -/

/-- The full words of R74, each read as its command. -/
def Obligations.CommandWordsDecode : Prop :=
  decode 0x00000000 = .ok .nop ∧ decode 0x00000001 = .ok .init ∧ decode 0x00000002 = .ok .seedx ∧
    decode 0x00000003 = .ok (.mix 0) ∧ decode 0x00000103 = .ok (.mix 1) ∧ decode 0x00000203 = .ok (.mix 2) ∧
    decode 0x00000303 = .ok (.mix 3) ∧ decode 0x00000403 = .ok (.mix 4) ∧ decode 0x00000503 = .ok (.mix 5) ∧
    decode 0x00000603 = .ok (.mix 6) ∧ decode 0x00000004 = .ok .absm ∧ decode 0x00000005 = .ok .abss ∧
    decode 0x00000006 = .ok .absx ∧ decode 0x00000007 = .ok .final ∧ decode 0x00000008 = .ok .hash ∧
    decode 0x00000009 = .ok .norm

/-- R80 whole: the decoder as the rule's pseudocode, its fields written as numbers of the word; and a word that raises changes
nothing but STATUS (and CUR, the internal copy of the word that acceptance takes, R86, with the model's own record of races). -/
def Obligations.DecodeReadsFields : Prop :=
  (∀ c : Word32,
    decode c =
      if 10 ≤ c.toNat % 256 then .error .illegalCmd
      else if c.toNat % 256 = 3 then
        if c.toNat / 2048 ≠ 0 then .error .illegalCmd
        else if c.toNat / 256 % 8 = 7 then .error .badOperand
        else .ok (.mix (BitVec.ofNat 3 (c.toNat / 256 % 8)))
      else if c.toNat / 256 ≠ 0 then .error .illegalCmd
      else .ok ([Instr.nop, .init, .seedx, .mix 0, .absm, .abss, .absx, .final, .hash, .norm].getD (c.toNat % 256) .nop)) ∧
  ∀ (c : Word32) (e : ErrorCode) (s : State), decode c = .error e →
    presentCommand c s =
      { s with status := failedStatus (errorNumber e) { s.status with ovr := false }, cur := c, raced := [] }

/-- Decode and encode agree, both ways: a well-formed command's word decodes to it, and a word that decodes is the word of the
well-formed command it decodes to. So each command has one word and each word one meaning (R70, R74, R80). -/
def Obligations.DecodeEncodeAgree : Prop :=
  (∀ i : Instr, i.wellFormed = true → decode (encode i) = .ok i) ∧
  ∀ (c : Word32) (i : Instr), decode c = .ok i → i.wellFormed = true ∧ encode i = c

/-- R75 and R76: a reserved opcode, or a defined opcode with a nonzero reserved field, raises ILLEGAL_CMD and has no other
effect. -/
def Obligations.ReservedEncodingsIllegal : Prop :=
  ∀ c : Word32,
    (10 ≤ c.toNat % 256 ∨ (c.toNat % 256 = 3 ∧ c.toNat / 2048 ≠ 0) ∨
      (c.toNat % 256 < 10 ∧ c.toNat % 256 ≠ 3 ∧ c.toNat / 256 ≠ 0)) →
    decode c = .error .illegalCmd ∧
      ∀ s : State, presentCommand c s =
        { s with status := failedStatus 1 { s.status with ovr := false }, cur := c, raced := [] }

/-- R77: MIX with A = 7 raises BAD_OPERAND, has no other effect, and is not read as any other pivot. -/
def Obligations.PivotSevenBadOperand : Prop :=
  decode 0x00000703 = .error .badOperand ∧
  (∀ s : State, presentCommand 0x00000703 s =
    { s with status := failedStatus 2 { s.status with ovr := false }, cur := 0x00000703, raced := [] }) ∧
  ∀ s : State, exec (.mix 7) s = .next { s with status := failedStatus 2 s.status }

/-! ## Command sequencing -/

/-- A step at which the engine takes its turn, busy with a command word that decodes to i, is exec of i: with no input left, with
an engine's turn next (which is consumed), or with a host that polls (which stays). A word placed by withFetchWord is the very
next command (R86, R88). -/
def Obligations.StepRunsDecodedCommand : Prop :=
  (∀ (s : State) (i : Instr), s.inputs = [] → s.status.busy = true → decode s.cur = .ok i → step s = exec i s) ∧
  (∀ (s : State) (i : Instr) (rest : List Input), s.inputs = .engine :: rest → s.status.busy = true →
    decode s.cur = .ok i → step s = exec i { s with inputs := rest }) ∧
  (∀ (s : State) (i : Instr) (rest : List Input), s.inputs = .poll :: rest → s.status.busy = true →
    decode s.cur = .ok i → step s = exec i s) ∧
  ∀ (s : State) (nbits w : Nat) (i : Instr), decodeTableWord nbits w = some i →
    step (s.withFetchWord nbits w) = exec i (acceptCommand (tableWord nbits w) s)

/-- R86: a host write to CMD, at CSR_BASE, while the engine is idle: in one step BUSY is set, the completion fields and OVR are
cleared, CUR takes the word, and a word that does not decode ends its command at once. The valid bits are kept. -/
def Obligations.CommandAcceptance : Prop :=
  ∀ (s : State) (c : Word32) (rest : List Input), s.status.busy = false →
    s.inputs = .write s.params.csrBase 4 c :: rest →
    (∀ i, decode c = .ok i → step s = .next
      { s with
        inputs := rest, cur := c, raced := []
        status := { s.status with busy := true, done := false, err := false, errcode := 0, ovr := false } }) ∧
    ∀ e, decode c = .error e → step s = .next
      { s with
        inputs := rest, cur := c, raced := []
        status := { s.status with busy := false, done := true, err := true, errcode := errorNumber e, ovr := false } }

/-- R91: a busy engine's turn completes its command, whatever the command. Only a launch of ABSM or HASH that has passed its state
and argument checks must have its message in plain memory: else the spec has a model refuse it (R61, log entry 8). -/
def Obligations.AcceptedCommandsComplete : Prop :=
  ∀ s : State, s.status.busy = true →
    (∀ i, decode s.cur = .ok i → ((i = .absm ∧ s.status.stateValid = true) ∨ i = .hash) → ArgsLegal s → MessagePlain s) →
    ∃ t, engineTurn s = .next t ∧ t.status.busy = false ∧ t.status.done = true ∧ t.inputs = s.inputs

/-- R85: the engine is idle after reset; it leaves idle only by accepting a command that the host writes to CMD, and returns to
idle only by completing its command or by reset. -/
def Obligations.EngineLifeCycle : Prop :=
  State.reset.status.busy = false ∧
  (∀ s t : State, step s = .next t → s.status.busy = false → t.status.busy = true →
    ∃ c i rest, s.inputs = .write s.params.csrBase 4 c :: rest ∧ decode c = .ok i ∧ t.cur = c) ∧
  ∀ s t : State, step s = .next t → s.status.busy = true → t.status.busy = false →
    (∃ rest, s.inputs = .reset :: rest) ∨ t.status.done = true

/-- R92 whole: NOP changes only STATUS, in every state; its word is 0 and no other word of its opcode is legal; the example. -/
def Obligations.NopCompletes : Prop :=
  decode 0x00000000 = .ok .nop ∧
  (∀ c : Word32, c.toNat % 256 = 0 → c.toNat / 256 ≠ 0 → decode c = .error .illegalCmd) ∧
  (∀ s : State, exec .nop s = .next { s with status := doneStatus s.status }) ∧
  (∀ s : State, issue 0x00000000 s = .next
    { s with status := doneStatus { s.status with ovr := false }, cur := 0x00000000, raced := [] }) ∧
  ∀ s : State, statusWord s.status = 0x0000010A → ∃ t, issue 0x00000000 s = .next t ∧ statusWord t.status = 0x00000102

/-! ## The register window -/

/-- R32: a host write to CMD, SEED, MSG_LEN, MSG_ADDR_LO or MSG_ADDR_HI while BUSY = 1 sets OVR and does nothing else; nothing
else sets OVR; acceptance and reset clear it. -/
def Obligations.BusyWritesDropped : Prop :=
  (∀ (s : State) (r : Reg) (v : Word32) (rest : List Input),
    r ∈ [Reg.cmd, .seed, .msgLen, .msgAddrLo, .msgAddrHi] → s.status.busy = true →
    s.inputs = .write (s.params.csrBase + regOffset r) 4 v :: rest →
    step s = .next { s with inputs := rest, status := { s.status with ovr := true } }) ∧
  (∀ s t : State, step s = .next t → s.status.ovr = false → t.status.ovr = true →
    s.status.busy = true ∧
      ∃ r v rest, r ∈ [Reg.cmd, .seed, .msgLen, .msgAddrLo, .msgAddrHi] ∧
        s.inputs = .write (s.params.csrBase + regOffset r) 4 v :: rest) ∧
  (∀ (c : Word32) (s : State), (acceptCommand c s).status.ovr = false) ∧
  ∀ s : State, (resetBlock s).status.ovr = false

/-- R40: a write to CMD while idle presents its word to the engine; while busy it is dropped and sets OVR; a read returns 0. -/
def Obligations.CmdRegisterAccess : Prop :=
  (∀ (s : State) (c : Word32) (rest : List Input), s.status.busy = false →
    s.inputs = .write s.params.csrBase 4 c :: rest → step s = .next (presentCommand c { s with inputs := rest })) ∧
  (∀ (s : State) (c : Word32) (rest : List Input), s.status.busy = true →
    s.inputs = .write s.params.csrBase 4 c :: rest →
    step s = .next { s with inputs := rest, status := { s.status with ovr := true } }) ∧
  ∀ (s : State) (rest : List Input), s.inputs = .read s.params.csrBase 4 :: rest →
    ∃ t, step s = .next t ∧ t.hostRead = 0 ∧ t = { s with inputs := rest, hostRead := 0, draws := t.draws }

/-- R41: a reserved offset of the window reads 0; a write to it is ignored and does not set OVR, busy or idle. -/
def Obligations.ReservedOffsetsInert : Prop :=
  ∀ (s : State) (off : Nat) (rest : List Input),
    (off = 0x038 ∨ off = 0x03C ∨ (0x090 ≤ off ∧ off ≤ 0xFFC ∧ off % 4 = 0)) →
    (∀ v, s.inputs = .write (s.params.csrBase + off) 4 v :: rest → step s = .next { s with inputs := rest }) ∧
    (s.inputs = .read (s.params.csrBase + off) 4 :: rest → step s = .next { s with inputs := rest, hostRead := 0 })

/-- The register map of R36: every register has the offset the rule gives, a multiple of 4 in the window, and the window holds
there that register and no other; a host write to a read-only register is ignored and does not set OVR, busy or idle. -/
def Obligations.RegisterMapAgrees : Prop :=
  (regOffset .cmd = 0x000 ∧ regOffset .status = 0x004 ∧ regOffset .seed = 0x008 ∧ regOffset .msgLen = 0x00C ∧
    regOffset .msgAddrLo = 0x010 ∧ regOffset .msgAddrHi = 0x014 ∧
    (∀ k : Fin 4, regOffset (.digestLo k) = 0x018 + 8 * k.val ∧ regOffset (.digestHi k) = 0x01C + 8 * k.val ∧
      regOffset (.sb k) = 0x080 + 4 * k.val) ∧
    ∀ k : Fin 8, regOffset (.stLo k) = 0x040 + 8 * k.val ∧ regOffset (.stHi k) = 0x044 + 8 * k.val) ∧
  (∀ r : Reg, regOffset r % 4 = 0 ∧ regOffset r < 4096 ∧ regAtWord (regOffset r / 4) = some r) ∧
  (∀ (q : Nat) (r : Reg), regAtWord q = some r → regOffset r = 4 * q) ∧
  ∀ (s : State) (r : Reg) (v : Word32) (rest : List Input),
    r ∉ [Reg.cmd, .seed, .msgLen, .msgAddrLo, .msgAddrHi] →
    s.inputs = .write (s.params.csrBase + regOffset r) 4 v :: rest → step s = .next { s with inputs := rest }

/-- SEED and MSG_LEN take every value a host writes while the engine is idle, change nothing else, and read back as they are (R26,
R27). That a read is exact while a command runs, and so that SEED reads its old value while NORM runs, is the model's choice (log
entry 14). -/
def Obligations.OperandRegistersReadBack : Prop :=
  (∀ (s : State) (v : Word32) (rest : List Input), s.status.busy = false →
    s.inputs = .write (s.params.csrBase + 0x008) 4 v :: rest → step s = .next { s with inputs := rest, seed := v }) ∧
  (∀ (s : State) (v : Word32) (rest : List Input), s.status.busy = false →
    s.inputs = .write (s.params.csrBase + 0x00C) 4 v :: rest → step s = .next { s with inputs := rest, msgLen := v }) ∧
  (∀ (s : State) (rest : List Input), s.inputs = .read (s.params.csrBase + 0x008) 4 :: rest →
    ∃ t, step s = .next t ∧ t.hostRead = s.seed ∧ t.seed = s.seed) ∧
  ∀ (s : State) (rest : List Input), s.inputs = .read (s.params.csrBase + 0x00C) 4 :: rest →
    ∃ t, step s = .next t ∧ t.hostRead = s.msgLen ∧ t.msgLen = s.msgLen

/-- R28: a write to half of MSG_ADDR while idle sets that half's bits below ADDR_W and leaves every bit at or above ADDR_W zero; a
read returns the half. -/
def Obligations.MsgAddrHardwiredBits : Prop :=
  (∀ (s : State) (v : Word32) (rest : List Input), s.status.busy = false →
    s.inputs = .write (s.params.csrBase + 0x010) 4 v :: rest →
    ∃ t, step s = .next t ∧ t = { s with inputs := rest, msgAddr := t.msgAddr } ∧
      ∀ k, t.msgAddr.getLsbD k =
        (decide (k < s.params.addrW) && if k < 32 then v.getLsbD k else s.msgAddr.getLsbD k)) ∧
  (∀ (s : State) (v : Word32) (rest : List Input), s.status.busy = false →
    s.inputs = .write (s.params.csrBase + 0x014) 4 v :: rest →
    ∃ t, step s = .next t ∧ t = { s with inputs := rest, msgAddr := t.msgAddr } ∧
      ∀ k, t.msgAddr.getLsbD k =
        (decide (k < s.params.addrW) && if k < 32 then s.msgAddr.getLsbD k else v.getLsbD (k - 32))) ∧
  (∀ (s : State) (rest : List Input), s.inputs = .read (s.params.csrBase + 0x010) 4 :: rest →
    ∃ t, step s = .next t ∧ t.hostRead = s.msgAddr.extractLsb' 0 32) ∧
  (∀ (s : State) (rest : List Input), s.inputs = .read (s.params.csrBase + 0x014) 4 :: rest →
    ∃ t, step s = .next t ∧ t.hostRead = s.msgAddr.extractLsb' 32 32) ∧
  ∀ (s : State) (rest : List Input), s.Inv → s.params.addrW ≤ 32 →
    s.inputs = .read (s.params.csrBase + 0x014) 4 :: rest → ∃ t, step s = .next t ∧ t.hostRead = 0

/-- R37: what a host read of the State window returns: a fresh draw while busy; idle, the half word, or 0 when STATE_VALID = 0.
Nothing of the block changes. -/
def Obligations.StateWindowReads : Prop :=
  ∀ (s : State) (k : Fin 8) (rest : List Input),
    (s.inputs = .read (s.params.csrBase + (0x040 + 8 * k.val)) 4 :: rest →
      step s = .next
        { s with
          inputs := rest
          draws := s.draws + 1
          hostRead :=
            if s.status.busy = true then Config.draw 32 s.draws
            else if s.status.stateValid = true then s.st[k].extractLsb' 0 32 else 0 }) ∧
    (s.inputs = .read (s.params.csrBase + (0x044 + 8 * k.val)) 4 :: rest →
      step s = .next
        { s with
          inputs := rest
          draws := s.draws + 1
          hostRead :=
            if s.status.busy = true then Config.draw 32 s.draws
            else if s.status.stateValid = true then s.st[k].extractLsb' 32 32 else 0 })

/-- R38: what a host read of the seed buffer window returns. -/
def Obligations.SeedWindowReads : Prop :=
  ∀ (s : State) (k : Fin 4) (rest : List Input),
    s.inputs = .read (s.params.csrBase + (0x080 + 4 * k.val)) 4 :: rest →
    step s = .next
      { s with
        inputs := rest
        draws := s.draws + 1
        hostRead :=
          if s.status.busy = true then Config.draw 32 s.draws
          else if s.status.seedbufValid = true then s.sb[k] else 0 }

/-- R39: what a host read of the digest window returns, whatever DIGEST_VALID is; and, by R25, 0 for k = 1, 2, 3 when not busy. -/
def Obligations.DigestWindowReads : Prop :=
  (∀ (s : State) (k : Fin 4) (rest : List Input),
    (s.inputs = .read (s.params.csrBase + (0x018 + 8 * k.val)) 4 :: rest →
      step s = .next
        { s with
          inputs := rest
          draws := s.draws + 1
          hostRead := if s.status.busy = true then Config.draw 32 s.draws else s.dg[k].extractLsb' 0 32 }) ∧
    (s.inputs = .read (s.params.csrBase + (0x01C + 8 * k.val)) 4 :: rest →
      step s = .next
        { s with
          inputs := rest
          draws := s.draws + 1
          hostRead := if s.status.busy = true then Config.draw 32 s.draws else s.dg[k].extractLsb' 32 32 })) ∧
  ∀ (s : State) (k : Fin 4) (rest : List Input), s.Inv → s.status.busy = false → k ≠ 0 →
    (s.inputs = .read (s.params.csrBase + (0x018 + 8 * k.val)) 4 :: rest ∨
      s.inputs = .read (s.params.csrBase + (0x01C + 8 * k.val)) 4 :: rest) →
    ∃ t, step s = .next t ∧ t.hostRead = 0

/-- The layout of STATUS (R29): the bits of its word; a read of STATUS returns exactly that word, busy or idle. -/
def Obligations.StatusWordLayout : Prop :=
  (∀ f : Status,
    (statusWord f).getLsbD 0 = f.busy ∧ (statusWord f).getLsbD 1 = f.done ∧ (statusWord f).getLsbD 2 = f.err ∧
      (statusWord f).getLsbD 3 = f.ovr ∧ (statusWord f).extractLsb' 4 4 = f.errcode ∧
      (statusWord f).getLsbD 8 = f.stateValid ∧ (statusWord f).getLsbD 9 = f.seedbufValid ∧
      (statusWord f).getLsbD 10 = f.digestValid ∧ ∀ k, 11 ≤ k → (statusWord f).getLsbD k = false) ∧
  ∀ (s : State) (rest : List Input), s.inputs = .read (s.params.csrBase + 0x004) 4 :: rest →
    ∃ t, step s = .next t ∧ t.hostRead = statusWord s.status ∧ t.status = s.status

/-- R53: a host access to the window that is not 32 bits wide at a multiple of 4 has no effect on the block: the model gives the
host no step. -/
def Obligations.MalformedAccessStuck : Prop :=
  ∀ (s : State) (off bytes : Nat) (rest : List Input), off < 4096 → (bytes ≠ 4 ∨ off % 4 ≠ 0) →
    (∀ v, s.inputs = .write (s.params.csrBase + off) bytes v :: rest → step s = .fault .hostAccessNotWord) ∧
    (s.inputs = .read (s.params.csrBase + off) bytes :: rest → step s = .fault .hostAccessNotWord)

/-! ## Reset -/

/-- R170: reset sets every piece of state to its value of R46 in one step, whatever the block was doing: the registers the spec
leaves unspecified hold fresh draws. The draws' numbers (log entry 2), and that message memory, the parameters and the value last
read are kept, being no registers of the block (log entry 14), are the model's choices. -/
def Obligations.ResetInputSetsState : Prop :=
  ∀ (s : State) (rest : List Input), s.inputs = .reset :: rest →
    ∃ t, step s = .next t ∧
      statusWord t.status = 0 ∧ t.dg = #v[0, 0, 0, 0] ∧ t.seed = 0 ∧ t.msgLen = 0 ∧ t.msgAddr = 0 ∧
      t.st = Config.drawWords8 s.draws ∧ t.sb = Config.drawWords4 (s.draws + 8) ∧
      t.cur = Config.draw 32 (s.draws + 12) ∧ t.pass = Pass.drawn (s.draws + 13) ∧
      t.snap = Config.drawWords8 (s.draws + 19) ∧ t.draws = s.draws + 27 ∧
      t.params = s.params ∧ t.mem = s.mem ∧ t.hostRead = s.hostRead ∧ t.inputs = rest

/-- The machine right after reset (R46). That the unspecified registers hold these draws is the model's choice (log entry 2). -/
def Obligations.ResetStateValues : Prop :=
  statusWord State.reset.status = 0x00000000 ∧ State.reset.status = ⟨false, false, false, false, 0, false, false, false⟩ ∧
    State.reset.dg = #v[0, 0, 0, 0] ∧ State.reset.seed = 0 ∧ State.reset.msgLen = 0 ∧ State.reset.msgAddr = 0 ∧
    State.reset.params = Config.params ∧
    State.reset.st = Config.drawWords8 0 ∧ State.reset.sb = Config.drawWords4 8 ∧ State.reset.pass = Pass.drawn 13 ∧
    State.reset.snap = Config.drawWords8 19

/-! ## Initialiser and seed expander -/

/-- R97 whole: INIT in every state, its word, and the example. -/
def Obligations.InitCompletes : Prop :=
  decode 0x00000001 = .ok .init ∧
  (∀ c : Word32, c.toNat % 256 = 1 → c.toNat / 256 ≠ 0 → decode c = .error .illegalCmd) ∧
  (∀ s : State, exec .init s = .next
    { s with
      st := s.params.initStore.words
      dg := #v[0, 0, 0, 0]
      status := { doneStatus s.status with stateValid := true, digestValid := false } }) ∧
  (∀ s : State, ∃ t, issue 0x00000001 s = .next t ∧ t.st = s.params.initStore.words ∧ t.dg = #v[0, 0, 0, 0] ∧
    t.sb = s.sb ∧ t.seed = s.seed ∧
    t.status = { doneStatus s.status with stateValid := true, digestValid := false, ovr := false }) ∧
  ∀ s : State, s.params.initStore.words = tp1Words → s.status = Status.zero →
    ∃ t, issue 0x00000001 s = .next t ∧ t.st[0] = 0x1111111111111111 ∧ t.st[7] = 0x8888888888888888 ∧
      statusWord t.status = 0x00000102

/-- R101 whole: SEEDX in every state, its word, and the example. -/
def Obligations.SeedxCompletes : Prop :=
  decode 0x00000002 = .ok .seedx ∧
  (∀ c : Word32, c.toNat % 256 = 2 → c.toNat / 256 ≠ 0 → decode c = .error .illegalCmd) ∧
  (∀ s : State, exec .seedx s = .next
    { s with
      sb := #v[0xC5550690 - s.seed, s.seed + 1, ~~~(s.seed - 1), (s.seed + 1) * 0xF00DACCA]
      status := { doneStatus s.status with seedbufValid := true } }) ∧
  ∀ s : State, s.seed = 12345 → ∃ t, exec .seedx s = .next t ∧
    t.sb = #v[0xC554D657, 0x0000303A, 0xFFFFCFC7, 0xF37F05C4] ∧
    sbWord t.sb 0 = 0x0000303AC554D657 ∧ sbWord t.sb 1 = 0xF37F05C4FFFFCFC7

/-- R99 and R100: the expansion function and its laws. -/
def Obligations.ExpansionLaws : Prop :=
  (∀ s : Word32, expandSeed s = #v[0xC5550690 - s, s + 1, ~~~(s - 1), (s + 1) * 0xF00DACCA]) ∧
  (∀ s : Word32, (expandSeed s)[2] = -s) ∧
  (∀ s : Word32, (expandSeed s)[0] = 0xC5550690 + (expandSeed s)[2]) ∧
  (∀ s : Word32, (expandSeed s)[3] = (expandSeed s)[1] * 0xF00DACCA) ∧
  (∀ s s' : Word32, expandSeed s = expandSeed s' → s = s') ∧
  expandSeed 0 = #v[0xC5550690, 0x00000001, 0x00000000, 0xF00DACCA] ∧
  expandSeed 0xFFFFFFFF = #v[0xC5550691, 0x00000000, 0x00000001, 0x00000000] ∧
  (expandSeed 0xC5550690)[0] = 0

/-- R104: INIT and SEEDX commute: either order leaves the same state, but for CUR, which holds the word issued last. -/
def Obligations.InitSeedxCommute : Prop :=
  ∀ s : State, ∃ t, issueAll [0x00000001, 0x00000002] s = .next t ∧
    issueAll [0x00000002, 0x00000001] s = .next { t with cur := 0x00000001 }

/-! ## Mixer -/

/-- R106 and R110: the mixer primitive, word by word, and two values of its half-step. -/
def Obligations.MixPrimitive : Prop :=
  (∀ x : Word64, mixHalf x = rotr64 (x * 0xFFFFFFFFFFFFFFC5) 23 * 0xB6B9B01D592F9601) ∧
  (∀ (a : Fin 7) (st : Words) (A B k : Fin 8), A.val = a.val → B.val = a.val + 1 →
    (mix a st)[A] = rotr64 (st[A] * 0xFFFFFFFFFFFFFFC5) 23 * 0xB6B9B01D592F9601 ∧
    (mix a st)[B] = rotr64 ((st[B] ^^^ (mix a st)[A]) * 0xFFFFFFFFFFFFFFC5) 23 * 0xB6B9B01D592F9601 ∧
    (k ≠ A → k ≠ B → (mix a st)[k] = st[k])) ∧
  mixHalf 0 = 0 ∧ mixHalf 1 = 0xB94DDBE2A6D069FF

/-- R107: MIX with a legal pivot and STATE_VALID = 1 mixes its pair and changes nothing else; its errors; the example. -/
def Obligations.MixCompletes : Prop :=
  (∀ (s : State) (a : BitVec 3) (A B : Fin 8), A.val = a.toNat → B.val = a.toNat + 1 → s.status.stateValid = true →
    ∃ t, exec (.mix a) s = .next t ∧ t = { s with st := t.st, status := doneStatus s.status } ∧
      t.st[A] = rotr64 (s.st[A] * 0xFFFFFFFFFFFFFFC5) 23 * 0xB6B9B01D592F9601 ∧
      t.st[B] = rotr64 ((s.st[B] ^^^ t.st[A]) * 0xFFFFFFFFFFFFFFC5) 23 * 0xB6B9B01D592F9601 ∧
      ∀ k : Fin 8, k ≠ A → k ≠ B → t.st[k] = s.st[k]) ∧
  (∀ (s : State) (a : BitVec 3), a ≠ 7 → s.status.stateValid = false →
    exec (.mix a) s = .next { s with status := failedStatus 3 s.status }) ∧
  ∀ s : State, s.status.stateValid = true → s.st[0] = 1 → s.st[1] = 0 →
    ∃ t, exec (.mix 0) s = .next t ∧ t.st[0] = 0xB94DDBE2A6D069FF ∧ t.st[1] = 0x224B17CA4AC4591B

/-- R108: mix(A) changes only its pair, so mixers of separate pairs commute, and those of neighbouring pairs do not in general. -/
def Obligations.MixOfSeparatePairsCommutes : Prop :=
  (∀ (a : Fin 7) (st : Words) (k : Fin 8), k.val ≠ a.val → k.val ≠ a.val + 1 → (mix a st)[k] = st[k]) ∧
  (∀ (a b : Fin 7) (st : Words), a.val + 2 ≤ b.val ∨ b.val + 2 ≤ a.val → mix a (mix b st) = mix b (mix a st)) ∧
  ∃ (a b : Fin 7) (st : Words), b.val = a.val + 1 ∧ mix a (mix b st) ≠ mix b (mix a st)

/-- R109: every mixer call is a bijection, with the inverse constants and the inverse half-step the rule gives. -/
def Obligations.MixBijective : Prop :=
  (∀ a : Fin 7, Function.Bijective (mix a)) ∧
  (0xFFFFFFFFFFFFFFC5 : Word64) * 0x34115B1E5F75270D = 1 ∧ (0xB6B9B01D592F9601 : Word64) * 0xEB5004037AB46A01 = 1 ∧
  (∀ x : Word64, (mixHalf x * 0xEB5004037AB46A01).rotateLeft 23 * 0x34115B1E5F75270D = x) ∧
  ∀ y : Word64, mixHalf ((y * 0xEB5004037AB46A01).rotateLeft 23 * 0x34115B1E5F75270D) = y

/-- R111: a pair of zeros is a fixed point, and a State of zeros is unchanged by any sequence of mixer calls. -/
def Obligations.MixFixesZero : Prop :=
  (∀ (a : Fin 7) (st : Words) (A B : Fin 8), A.val = a.val → B.val = a.val + 1 → st[A] = 0 → st[B] = 0 →
    (mix a st)[A] = 0 ∧ (mix a st)[B] = 0) ∧
  ∀ as : List (Fin 7), mixRun as #v[0, 0, 0, 0, 0, 0, 0, 0] = #v[0, 0, 0, 0, 0, 0, 0, 0]

/-! ## Absorption -/

/-- ABSM with STATE_VALID = 1, arguments that R149 allows, every byte readable (R151) and plain memory (R61) absorbs the message as
R129 says, and changes nothing but ST and the hidden pass registers; when no byte races, the message is the bytes as written. Which
bytes race when the range overlaps the register window is the model's reading of R66 (log entry 5). -/
def Obligations.AbsmCompletes : Prop :=
  ∀ s : State, s.status.stateValid = true → ArgsLegal s → MessageReadable s → MessagePlain s →
    (∃ t, exec .absm s = .next t ∧ t.st = absorbRef s.params (messageSeen s) s.st ∧
      t = { s with st := t.st, pass := t.pass, draws := t.draws, status := doneStatus s.status }) ∧
    (MessageQuiet s → messageSeen s = messageWritten s)

/-- ABSS with both valid bits set absorbs the seed buffer's sixteen bytes as R129 says, and changes nothing but ST and the hidden
pass registers. -/
def Obligations.AbssCompletes : Prop :=
  ∀ s : State, s.status.stateValid = true → s.status.seedbufValid = true →
    ∃ t, exec .abss s = .next t ∧ t.st = absorbRef s.params (seedBytes s.sb) s.st ∧
      t = { s with st := t.st, pass := t.pass, status := doneStatus s.status }

/-- ABSX with STATE_VALID = 1 absorbs the State's own image as R129 says; SNAP holds the image taken before any write; nothing else
changes but the hidden pass registers. That SNAP still holds it after the pass is the model's choice (log entry 6). -/
def Obligations.AbsxCompletes : Prop :=
  ∀ s : State, s.status.stateValid = true →
    ∃ t, exec .absx s = .next t ∧ t.st = absorbRef s.params (image s.st) s.st ∧
      t = { s with st := t.st, pass := t.pass, snap := s.st, status := doneStatus s.status }

/-- R127: in a self-absorption pass, the snapshot word that word step n reads is the word a live read would find at that step. -/
def Obligations.SnapshotEqualsLiveRead : Prop :=
  ∀ (p : Config.Params) (st : Words) (n : Nat) (h : n < 8),
    ∃ x, wordPhase (snapByte st) n (startPass p 64 st) = .ok x ∧ x.st[n] = st[n] ∧
      readBytes (snapByte st) (8 * n) 8 = some (bytesLE 8 x.st[n])

/-- R115 and R116: after n word steps the slot cursor is n mod 8, and the counter is its seed less the words read. -/
def Obligations.WordPhaseCounters : Prop :=
  ∀ (p : Config.Params) (f : Nat → Byte) (len n : Nat) (st : Words),
    ∃ x, wordPhase (fun k => some (f k)) n (startPass p len st) = .ok x ∧
      x.pass.sidx.val = n % 8 ∧ x.pass.len = len ∧ x.pass.c8 = p.byteCtrInit ∧
      x.pass.ctr = p.wordCtrInit - ((List.range n).map (fun i => le64 ((List.range 8).map (fun k => f (8 * i + k))))).sum

/-- The rotations of R12 bit by bit, and in Lean's own; and the byte step (R118 to R120) with Lean's own right rotation by 7: it
adds to byte j mod 64, subtracts the data byte from C8, mixes at j mod 7 and changes nothing else. -/
def Obligations.RotationsAndByteStep : Prop :=
  (∀ (x : Word64) (r k : Nat), r < 64 → k < 64 → (rotr64 x r).getLsbD k = x.getLsbD ((k + r) % 64)) ∧
  (∀ (x : Byte) (r k : Nat), r < 8 → k < 8 → (rotr8 x r).getLsbD k = x.getLsbD ((k + r) % 8)) ∧
  (∀ x : Word64, rotr64 x 0 = x ∧ rotr64 x 23 = x.rotateRight 23) ∧
  (∀ x : Byte, rotr8 x 0 = x ∧ rotr8 x 7 = x.rotateRight 7 ∧ rotr8 x 7 = x.rotateLeft 1) ∧
  ∀ (b : Byte) (j : Nat) (x : Pipe) (a : Fin 7), a.val = j % 7 →
    (byteStepOn b j x).st =
      mix a (setStByte x.st (j % 64)
        (stByte x.st (j % 64) + (b + BitVec.ofNat 8 j + x.pass.c8 + 1).rotateRight 7)) ∧
    (byteStepOn b j x).pass = { x.pass with c8 := x.pass.c8 - b }

/-! ## Finalizer and hash -/

/-- R130: the finalizer function, in both the rule's forms; the words 0, 1, 4 and 5 do not enter. -/
def Obligations.FinalizerFunction : Prop :=
  (∀ st : Words, finWord st = 0 - st[2] - st[3] - st[6] - st[7]) ∧
  (∀ st : Words, finWord st = -(st[2] + st[3] + st[6] + st[7])) ∧
  ∀ st st' : Words, st[2] = st'[2] → st[3] = st'[3] → st[6] = st'[6] → st[7] = st'[7] → finWord st = finWord st'

/-- R131 whole: FINAL with STATE_VALID = 1, and without it; its word; the example. -/
def Obligations.FinalCompletes : Prop :=
  decode 0x00000007 = .ok .final ∧
  (∀ c : Word32, c.toNat % 256 = 7 → c.toNat / 256 ≠ 0 → decode c = .error .illegalCmd) ∧
  (∀ s : State, s.status.stateValid = true → exec .final s = .next
    { s with
      dg := #v[0 - s.st[2] - s.st[3] - s.st[6] - s.st[7], 0, 0, 0]
      status := { doneStatus s.status with digestValid := true, stateValid := false, seedbufValid := false } }) ∧
  (∀ s : State, s.status.stateValid = false → exec .final s = .next { s with status := failedStatus 3 s.status }) ∧
  ∀ s : State, s.params.initStore.words = tp1Words → s.status = Status.zero →
    ∃ t, issueAll [0x00000001, 0x00000007] s = .next t ∧ t.dg[0] = 0x888888888888888A ∧
      statusWord t.status = 0x00000402

/-- HASH with arguments that R149 allows, every byte readable (R151) and plain memory (R61): the digest is that of the message
under the seed as R134 says; SB, the State and SNAP are what its steps leave; nothing else changes but the hidden pass
registers. Which bytes race when the range overlaps the register window is the model's reading of R66 (log entry 5). -/
def Obligations.HashCompletes : Prop :=
  ∀ s : State, ArgsLegal s → MessageReadable s → MessagePlain s →
    ∃ t, exec .hash s = .next t ∧
      t.dg = #v[digestRef s.params s.seed (messageSeen s), 0, 0, 0] ∧
      t.st = hashStateRef s.params s.seed (messageSeen s) ∧
      t.sb = #v[0xC5550690 - s.seed, s.seed + 1, ~~~(s.seed - 1), (s.seed + 1) * 0xF00DACCA] ∧
      t = { s with
        dg := t.dg, st := t.st, sb := t.sb, snap := t.snap, pass := t.pass, draws := t.draws
        status := { doneStatus s.status with digestValid := true, stateValid := false, seedbufValid := false } }

/-- R95: the commands INIT, SEEDX, ABSM, ABSS, ABSX, FINAL, issued one after another, leave what one HASH leaves, but for CUR; where
HASH raises an error, ABSM, the first of them that fails, raises the same error. That the hidden registers agree too is beyond the
rule and rests on the model's choice of what they hold between passes (log entry 6). -/
def Obligations.HashEqualsCommandSequence : Prop :=
  (∀ s t : State, issue 0x00000008 s = .next t → t.status.err = false →
    issueAll [0x00000001, 0x00000002, 0x00000004, 0x00000005, 0x00000006, 0x00000007] s =
      .next { t with cur := 0x00000007 }) ∧
  ∀ s t : State, issue 0x00000008 s = .next t → t.status.err = true →
    ∃ u v, issueAll [0x00000001, 0x00000002] s = .next u ∧ u.status.err = false ∧
      issue 0x00000004 u = .next v ∧ v.status.err = true ∧ v.status.errcode = t.status.errcode

/-- R138: two states with the same parameters, seed and length whose messages hold the same bytes, at whatever addresses, have the
same digest, whatever else they hold. -/
def Obligations.HashDeterminism : Prop :=
  ∀ s s' : State, s.params = s'.params → s.seed = s'.seed → s.msgLen = s'.msgLen →
    ArgsLegal s → MessageReadable s → MessagePlain s → MessageQuiet s →
    ArgsLegal s' → MessageReadable s' → MessagePlain s' → MessageQuiet s' →
    messageWritten s = messageWritten s' →
    ∃ t t', exec .hash s = .next t ∧ exec .hash s' = .next t' ∧ t.dg = t'.dg ∧ t.status.digestValid = true

/-- R137: with MSG_LEN = 0, HASH reads no memory and examines no address: its digest is a function of the seed and the
parameters. -/
def Obligations.HashLengthZero : Prop :=
  ∀ s : State, s.msgLen = 0 →
    ∃ t, exec .hash s = .next t ∧ t.status.digestValid = true ∧ t.dg = #v[digestRef s.params s.seed [], 0, 0, 0]

/-! ## Seed normalization -/

/-- R142 whole: NORM in every state: SEED becomes the first value of s, s + 1, .. that is not a bad seed; nothing else changes; its
word; the example under BS1. -/
def Obligations.NormCompletes : Prop :=
  decode 0x00000009 = .ok .norm ∧
  (∀ c : Word32, c.toNat % 256 = 9 → c.toNat / 256 ≠ 0 → decode c = .error .illegalCmd) ∧
  (∀ s : State, ∃ t n, exec .norm s = .next t ∧ t = { s with seed := t.seed, status := doneStatus s.status } ∧
    t.seed = s.seed + BitVec.ofNat 32 n ∧ n ≤ s.params.badSeeds.members.length ∧ n < 2 ^ 32 ∧
    t.seed ∉ s.params.badSeeds.members ∧
    ∀ m, m < n → s.seed + BitVec.ofNat 32 m ∈ s.params.badSeeds.members) ∧
  ∀ s : State, s.params.badSeeds.members = bs1Members →
    ∃ t, exec .norm s = .next t ∧ (s.seed = 5 → t.seed = 8) ∧ (s.seed = 0xFFFFFFFF → t.seed = 1) ∧
      (s.seed = 4 → t.seed = 4)

/-- R144: normalization is idempotent, its result is never a bad seed, and it is the first good value of the cyclic sequence. -/
def Obligations.NormalizationLaws : Prop :=
  ∀ (b : Config.BadSeeds) (s : Word32),
    normalize b (normalize b s) = normalize b s ∧ normalize b s ∉ b.members ∧
    (s ∉ b.members → normalize b s = s) ∧
    ∀ m, s + BitVec.ofNat 32 m ∉ b.members → ∃ n, n ≤ m ∧ normalize b s = s + BitVec.ofNat 32 n

/-! ## Views of storage -/

/-- R22 and R23, and the seed buffer's views of R24: the word and byte views are one storage. -/
def Obligations.ByteViewsConsistent : Prop :=
  (∀ (st : Words) (i : Fin 8) (k : Nat), k < 8 → stByte st (8 * i.val + k) = st[i].extractLsb' (8 * k) 8) ∧
  (∀ (st : Words) (k j : Nat) (v : Byte), k < 64 → j < 64 →
    stByte (setStByte st k v) j = if j = k then v else stByte st j) ∧
  (∀ (st : Words) (k : Nat) (v : Byte) (i : Fin 8), k < 64 → k / 8 ≠ i.val → (setStByte st k v)[i] = st[i]) ∧
  (∀ (st : Words) (i : Fin 8) (v : Word64) (j : Nat), j < 64 → j / 8 ≠ i.val → stByte (st.set i.val v) j = stByte st j) ∧
  (∀ st : Words, image st = bytesLE 8 st[0] ++ bytesLE 8 st[1] ++ bytesLE 8 st[2] ++ bytesLE 8 st[3] ++
    bytesLE 8 st[4] ++ bytesLE 8 st[5] ++ bytesLE 8 st[6] ++ bytesLE 8 st[7]) ∧
  (∀ (sb : Vector Word32 4) (i : Fin 4) (k : Nat), k < 4 → sbByte sb (4 * i.val + k) = sb[i].extractLsb' (8 * k) 8) ∧
  (∀ sb : Vector Word32 4, sbWord sb 0 = sb[1] ++ sb[0] ∧ sbWord sb 1 = sb[3] ++ sb[2]) ∧
  ∀ (sb : Vector Word32 4) (i : Fin 2), sbWord sb i.val = le64 ((List.range 8).map (fun k => sbByte sb (8 * i.val + k)))

/-! ## Errors -/

/-- Each command reports exactly the first error that applies, in the order of R152 (0 where none does). Only where none applies
before its first byte read must the message of ABSM and HASH be no launch the model refuses (R61, log entry 8). -/
def Obligations.FirstErrorReported : Prop :=
  (∀ (s : State) (a : BitVec 3), ∃ t, exec (.mix a) s = .next t ∧
    t.status.errcode = if a = 7 then 2 else if s.status.stateValid = false then 3 else 0) ∧
  (∀ s : State, (s.status.stateValid = true → ArgsLegal s → MessagePlain s) → ∃ t, exec .absm s = .next t ∧
    t.status.errcode =
      if s.status.stateValid = false then 3
      else if ¬ ArgsLegal s then 5 else if ¬ MessageReadable s then 6 else 0) ∧
  (∀ s : State, ∃ t, exec .abss s = .next t ∧
    t.status.errcode =
      if s.status.stateValid = false then 3 else if s.status.seedbufValid = false then 4 else 0) ∧
  (∀ s : State, ∃ t, exec .absx s = .next t ∧ t.status.errcode = if s.status.stateValid = false then 3 else 0) ∧
  (∀ s : State, ∃ t, exec .final s = .next t ∧ t.status.errcode = if s.status.stateValid = false then 3 else 0) ∧
  ∀ s : State, (ArgsLegal s → MessagePlain s) → ∃ t, exec .hash s = .next t ∧
    t.status.errcode = if ¬ ArgsLegal s then 5 else if ¬ MessageReadable s then 6 else 0

/-- R153: an error other than BUS_ERROR changes nothing but STATUS, whether the command or the decoding of its word raises it. -/
def Obligations.PreciseErrors : Prop :=
  (∀ (i : Instr) (s t : State), exec i s = .next t → t.status.err = true → t.status.errcode ≠ 6 →
    t = { s with status := failedStatus t.status.errcode s.status }) ∧
  ∀ (c : Word32) (e : ErrorCode) (s : State), decode c = .error e →
    presentCommand c s =
      { s with status := failedStatus (errorNumber e) { s.status with ovr := false }, cur := c, raced := [] }

/-- What a BUS_ERROR of ABSM and of HASH leaves (R136, R154). That SNAP keeps the image it held is beyond the rules and the model's
choice (DESIGN CHOICE, log entry 7; the pass registers are left open here); that the eight free words of ST are numbered draws is
the model's form of them (log entry 2). -/
def Obligations.BusErrorEffect : Prop :=
  (∀ s t : State, exec .absm s = .next t → t.status.errcode = 6 →
    (∃ n, s.draws ≤ n ∧ n + 8 = t.draws ∧ t.st = Config.drawWords8 n) ∧
    t = { s with
      st := t.st, pass := t.pass, draws := t.draws
      status := { failedStatus 6 s.status with stateValid := false } }) ∧
  ∀ s t : State, exec .hash s = .next t → t.status.errcode = 6 →
    (∃ n, s.draws ≤ n ∧ n + 8 = t.draws ∧ t.st = Config.drawWords8 n) ∧
    t = { s with
      st := t.st, sb := t.sb, pass := t.pass, draws := t.draws, dg := #v[0, 0, 0, 0]
      status := { failedStatus 6 s.status with stateValid := false, seedbufValid := false, digestValid := false } }

/-- R61: a launch whose message lies where reads have side effects or are not idempotent is refused by name. -/
def Obligations.SideEffectLaunchRefused : Prop :=
  (∀ s : State, s.status.stateValid = true → ArgsLegal s → ¬ MessagePlain s →
    exec .absm s = .refused .messageNotIdempotent) ∧
  ∀ s : State, ArgsLegal s → ¬ MessagePlain s → exec .hash s = .refused .messageNotIdempotent

/-! ## Frames and the whole machine -/

/-- What no command writes, and which commands write what (R20, R24, R25, R26, R43, R51): every byte of message memory, the
parameters, MSG_LEN, MSG_ADDR, CUR, OVR and the host's own data are as before; SEED changes only in NORM, SB only in SEEDX and
HASH, DG only in INIT, FINAL and HASH, ST only in INIT, MIX, ABSM, ABSS, ABSX and HASH, SNAP only in ABSX and HASH. That SNAP and
the pass registers keep their values between passes, and SNAP after a BUS_ERROR, is the model's choice (log entries 6 and 7). -/
def Obligations.CommandFrame : Prop :=
  ∀ (i : Instr) (s t : State), exec i s = .next t →
    (∀ a, Memory.read t.mem a = Memory.read s.mem a) ∧ t.mem = s.mem ∧ t.params = s.params ∧ t.msgLen = s.msgLen ∧
    t.msgAddr = s.msgAddr ∧ t.cur = s.cur ∧ t.raced = s.raced ∧ t.hostRead = s.hostRead ∧ t.inputs = s.inputs ∧
    t.status.ovr = s.status.ovr ∧
    (i ≠ .norm → t.seed = s.seed) ∧
    (i ≠ .seedx → i ≠ .hash → t.sb = s.sb) ∧
    (i ≠ .init → i ≠ .final → i ≠ .hash → t.dg = s.dg) ∧
    (i = .nop ∨ i = .seedx ∨ i = .final ∨ i = .norm → t.st = s.st) ∧
    (i ≠ .absx → i ≠ .hash → t.snap = s.snap) ∧
    (i = .nop ∨ i = .init ∨ i = .seedx ∨ i = .final ∨ i = .norm ∨ (∃ a, i = .mix a) →
      t.pass = s.pass ∧ t.draws = s.draws)

/-- R33 to R35: which commands set and clear the valid bits. -/
def Obligations.ValidBitDiscipline : Prop :=
  ∀ (i : Instr) (s t : State), exec i s = .next t →
    (t.status.stateValid = true → s.status.stateValid = true ∨ i = .init) ∧
    (s.status.stateValid = true → t.status.stateValid = false →
      i = .final ∨ i = .hash ∨ (i = .absm ∧ t.status.errcode = 6)) ∧
    (t.status.seedbufValid = true → s.status.seedbufValid = true ∨ i = .seedx) ∧
    (s.status.seedbufValid = true → t.status.seedbufValid = false → i = .final ∨ i = .hash) ∧
    (t.status.digestValid = true → s.status.digestValid = true ∨ i = .final ∨ i = .hash) ∧
    (s.status.digestValid = true → t.status.digestValid = false → i = .init ∨ (i = .hash ∧ t.status.errcode = 6))

/-- Host writes to message memory (R65, R82), made while the engine is idle or, against the host's duty, to bytes of the message
range while it is busy (R66, R169): the bytes named hold the values written and every other byte is as before; nothing of the
block changes; and no other step changes message memory or the parameters (R44, R51). -/
def Obligations.OnlyHostWritesMemory : Prop :=
  (∀ (s : State) (addr : Nat) (data : List Byte) (rest : List Input), Memory.wf s.mem = true →
    s.inputs = .mem addr data :: rest → addr + data.length ≤ 2 ^ s.params.addrW →
    meetsWindow s.params addr data.length = false →
    (s.status.busy = true → ∀ n, n < data.length →
      s.msgAddr.toNat ≤ addr + n ∧ addr + n < s.msgAddr.toNat + s.msgLen.toInt.toNat) →
    ∃ t, step s = .next t ∧ t = { s with inputs := rest, mem := t.mem, raced := t.raced } ∧
      ∀ a, Memory.read t.mem a =
        if addr ≤ a ∧ a < addr + data.length then data.getD (a - addr) 0 else Memory.read s.mem a) ∧
  ∀ s t : State, step s = .next t →
    t.params = s.params ∧ ((∀ addr data rest, s.inputs ≠ .mem addr data :: rest) → t.mem = s.mem)

/-- Where a host write to message memory has no step: a byte at or above 2^ADDR_W (R51), a byte of a register window that lies in
message memory (R52, R53), and, while the engine is busy, a byte outside the message range (R169). Which fault names a write that
meets more than one of these is the model's choice (log entry 9). -/
def Obligations.HostMemoryWriteStuck : Prop :=
  ∀ (s : State) (addr : Nat) (data : List Byte) (rest : List Input), s.inputs = .mem addr data :: rest →
    (2 ^ s.params.addrW < addr + data.length → step s = .fault .hostMemOutOfRange) ∧
    (addr + data.length ≤ 2 ^ s.params.addrW → s.params.windowShared = true →
      (∃ n, n < data.length ∧ s.params.csrBase ≤ addr + n ∧ addr + n < s.params.csrBase + 4096) →
      step s = .fault .hostAccessNotWord) ∧
    (addr + data.length ≤ 2 ^ s.params.addrW → meetsWindow s.params addr data.length = false → s.status.busy = true →
      (∃ n, n < data.length ∧ (addr + n < s.msgAddr.toNat ∨ s.msgAddr.toNat + s.msgLen.toInt.toNat ≤ addr + n)) →
      step s = .fault .hostMemWhileBusy)

/-- R66: a message byte that the host writes while a command runs, and every byte of a message range that overlaps the register
window, is read as a fresh draw of its own. -/
def Obligations.RacingReadsAreDraws : Prop :=
  (∀ (s t : State) (addr : Nat) (data : List Byte) (rest : List Input), s.status.busy = true →
    s.inputs = .mem addr data :: rest → step s = .next t →
    ∀ n, memAdmits t.params (t.msgAddr.toNat + n) = true →
      addr ≤ t.msgAddr.toNat + n → t.msgAddr.toNat + n < addr + data.length →
      messageByte t n = some (Config.draw 8 (t.draws + n))) ∧
  ∀ (s : State) (m n : Nat), s.params.windowShared = true → m < s.msgLen.toInt.toNat →
    s.params.csrBase ≤ s.msgAddr.toNat + m → s.msgAddr.toNat + m < s.params.csrBase + 4096 →
    memAdmits s.params (s.msgAddr.toNat + n) = true → messageByte s n = some (Config.draw 8 (s.draws + n))

/-- R51: the engine reads no message address but MSG_ADDR + j for 0 ≤ j < L: with any other memory that holds the same message,
every command does the same. -/
def Obligations.EngineReadsOnlyTheMessage : Prop :=
  ∀ (i : Instr) (s t : State) (m : Memory),
    (∀ n, n < s.msgLen.toInt.toNat →
      Memory.read m (s.msgAddr.toNat + n) = Memory.read s.mem (s.msgAddr.toNat + n)) →
    exec i s = .next t → exec i { s with mem := m } = .next { t with mem := m }

/-- The invariant that every step keeps, from every state that has it. -/
def Obligations.StepKeepsInv : Prop :=
  ∀ s t : State, s.Inv → step s = .next t → t.Inv

/-- The machine right after reset has the invariant. -/
def Obligations.ResetHasInv : Prop := State.reset.Inv

/-! ## The written forms -/

/-- R81 and R83: the assembler reads every command's written form, with any comment after it too; it refuses `mix 7` and any
operand on any other command; and the pseudo-instructions expand as the rule's table says. -/
def Obligations.WrittenFormsAgree : Prop :=
  (∀ i : Instr, i.wellFormed = true → assemble (commandText i) = some (.command i)) ∧
  (∀ (i : Instr) (comment : List Char), i.wellFormed = true →
    assemble (commandText i ++ ';' :: comment) = some (.command i) ∧
    assemble (commandText i ++ ' ' :: ';' :: comment) = some (.command i)) ∧
  assemble "mix 7".toList = none ∧ (∀ comment : List Char, assemble ("mix 7;".toList ++ comment) = none) ∧
  (∀ i ∈ [Instr.nop, .init, .seedx, .absm, .abss, .absx, .final, .hash, .norm], ∀ (c : Char) (operand : List Char),
    isSeparator c = false → c ≠ ';' → assemble (commandText i ++ ' ' :: c :: operand) = none) ∧
  (∀ i : Instr, expandLine (.command i) = [.wr .cmd (encode i), .poll]) ∧
  (∀ v : Word64, expandLine (.wr64 v) = [.wr .msgAddrLo (v.extractLsb' 0 32), .wr .msgAddrHi (v.extractLsb' 32 32)]) ∧
  (∀ k : Fin 4, expandLine (.rd64 (.digest k)) = [.rd (.digestLo k), .rd (.digestHi k)]) ∧
  (∀ k : Fin 8, expandLine (.rd64 (.st k)) = [.rd (.stLo k), .rd (.stHi k)]) ∧
  expandLine .mixall =
    [.wr .cmd 0x00000003, .poll, .wr .cmd 0x00000103, .poll, .wr .cmd 0x00000203, .poll, .wr .cmd 0x00000303, .poll,
      .wr .cmd 0x00000403, .poll, .wr .cmd 0x00000503, .poll, .wr .cmd 0x00000603, .poll] ∧
  expandLine .hashseq =
    [.wr .cmd 0x00000001, .poll, .wr .cmd 0x00000002, .poll, .wr .cmd 0x00000004, .poll, .wr .cmd 0x00000005, .poll,
      .wr .cmd 0x00000006, .poll, .wr .cmd 0x00000007, .poll]
end

