-- ==== Sys2Proof/Laws/Memory.lean ====
section
/-! SUPPORT. Message memory: a read after a write, and that every memory operation keeps the canonical form. -/

namespace Sys2Proof.Machine

@[simp] theorem Memory.read_nil (a : Nat) : Memory.read [] a = memUnlisted := rfl

theorem Memory.read_cons (b : Nat) (v : Byte) (m : Memory) (a : Nat) :
    Memory.read ((b, v) :: m) a = if a = b then v else Memory.read m a := rfl

/-- The cell put first reads as its byte; every other address reads as before. -/
theorem read_consCell (a : Nat) (v : Byte) (m : Memory) (a' : Nat) :
    Memory.read (consCell a v m) a' = if a' = a then (if v = memUnlisted then Memory.read m a else v) else Memory.read m a' := by
  unfold consCell
  split <;> simp_all [Memory.read_cons]

/-- Below the first address of a rising memory, every byte is unlisted. -/
theorem read_of_rising {low : Nat} {m : Memory} (h : memRisingFrom (some low) m = true) {a : Nat} (ha : a ≤ low) :
    Memory.read m a = memUnlisted := by
  induction m generalizing low with
  | nil => rfl
  | cons c m ih =>
    obtain ⟨b, v⟩ := c
    simp only [memRisingFrom, Option.all_some, Bool.and_eq_true, decide_eq_true_eq] at h
    rw [Memory.read_cons, if_neg (by omega)]
    exact ih h.2 (by omega)

/-- A bound on the first address may be weakened. -/
theorem rising_weaken {low : Option Nat} {b : Nat} {m : Memory} (h : memRisingFrom (some b) m = true)
    (hb : ∀ l ∈ low, l ≤ b) : memRisingFrom low m = true := by
  cases m with
  | nil => rfl
  | cons c m =>
    obtain ⟨b', v⟩ := c
    cases low with
    | none => simp_all [memRisingFrom]
    | some l =>
      have := hb l rfl
      simp_all [memRisingFrom]
      omega

/-- A write at an address above the bound keeps a memory rising. -/
theorem rising_write {low : Option Nat} {m : Memory} {a : Nat} (v : Byte) (h : memRisingFrom low m = true)
    (ha : ∀ l ∈ low, l < a) : memRisingFrom low (Memory.write m a v) = true := by
  induction m generalizing low with
  | nil =>
    unfold Memory.write consCell
    split
    · rfl
    · cases low <;> simp_all [memRisingFrom]
  | cons c m ih =>
    obtain ⟨b, x⟩ := c
    have h0 := h
    simp only [memRisingFrom, Bool.and_eq_true] at h
    obtain ⟨⟨hlow, hx⟩, hm⟩ := h
    have hlow' : low.all (· < a) = true := by cases low <;> simp_all
    unfold Memory.write
    split
    · rename_i hab
      unfold consCell
      split
      · exact h0
      · rename_i hv
        simp only [memRisingFrom, Bool.and_eq_true]
        exact ⟨⟨hlow', by simpa using hv⟩, ⟨by simpa using hab, hx⟩, hm⟩
    · split
      · rename_i hab
        subst hab
        unfold consCell
        split
        · exact rising_weaken hm (fun l hl => Nat.le_of_lt (ha l hl))
        · rename_i hv
          simp only [memRisingFrom, Bool.and_eq_true]
          exact ⟨⟨hlow', by simpa using hv⟩, hm⟩
      · simp only [memRisingFrom, Bool.and_eq_true]
        exact ⟨⟨hlow, hx⟩, ih hm (by simp; omega)⟩

/-- A write keeps the canonical form. -/
theorem Memory.write_wf {m : Memory} (h : Memory.wf m = true) (a : Nat) (v : Byte) :
    Memory.wf (Memory.write m a v) = true :=
  rising_write v h (by simp)

/-- Writes of several bytes keep the canonical form. -/
theorem Memory.writeAll_wf {m : Memory} (h : Memory.wf m = true) (a : Nat) (vs : List Byte) :
    Memory.wf (Memory.writeAll m a vs) = true := by
  induction vs generalizing m a with
  | nil => exact h
  | cons v vs ih => exact ih (Memory.write_wf h a v) (a + 1)

/-- The memory right after reset is in canonical form. -/
theorem reset_mem_wf : Memory.wf State.reset.mem = true := rfl

/-- A write of one byte, read back: that byte at its address, and every other byte as before. -/
theorem rising_read_write {low : Option Nat} {m : Memory} (h : memRisingFrom low m = true) (a : Nat) (v : Byte) (a' : Nat) :
    Memory.read (Memory.write m a v) a' = if a' = a then v else Memory.read m a' := by
  induction m generalizing low with
  | nil =>
    unfold Memory.write
    rw [read_consCell]
    split <;> simp_all
  | cons c m ih =>
    obtain ⟨b, x⟩ := c
    simp only [memRisingFrom, Bool.and_eq_true] at h
    obtain ⟨⟨_, _⟩, hm⟩ := h
    unfold Memory.write
    split
    · rename_i hab
      rw [read_consCell]
      have h1 : Memory.read ((b, x) :: m) a = memUnlisted := by
        rw [Memory.read_cons, if_neg (by omega)]
        exact read_of_rising hm (by omega)
      rw [h1]
      split
      · split <;> simp_all
      · rfl
    · split
      · rename_i hab
        subst hab
        rw [read_consCell, Memory.read_cons, read_of_rising hm (Nat.le_refl _)]
        split
        · split <;> simp_all
        · rfl
      · rw [Memory.read_cons, ih hm, Memory.read_cons]
        split
        · rw [if_neg (by omega)]
        · rfl

theorem Memory.read_write {m : Memory} (h : Memory.wf m = true) (a : Nat) (v : Byte) (a' : Nat) :
    Memory.read (Memory.write m a v) a' = if a' = a then v else Memory.read m a' :=
  rising_read_write h a v a'

/-- The addresses a write lists: the one written, and those listed before. -/
theorem mem_write {m : Memory} {a : Nat} {v : Byte} {c : Host.Cell} (h : c ∈ Memory.write m a v) : c.1 = a ∨ c ∈ m := by
  induction m with
  | nil =>
    unfold Memory.write consCell at h
    split at h <;> simp_all
  | cons d m ih =>
    obtain ⟨b, x⟩ := d
    unfold Memory.write consCell at h
    split at h <;> split at h <;> (try split at h) <;> simp_all <;> grind

end Sys2Proof.Machine
end

