-- ==== Sys2Proof/Laws/State.lean ====
section
/-! SUPPORT. What each shared operation leaves in each field of the state: one lemma for each field and operation. -/

namespace Sys2Proof.Machine

/-! The fields after acceptance (R86). -/

@[simp] theorem acceptCommand_params (c : Word32) (s : State) : (acceptCommand c s).params = s.params := rfl
@[simp] theorem acceptCommand_st (c : Word32) (s : State) : (acceptCommand c s).st = s.st := rfl
@[simp] theorem acceptCommand_sb (c : Word32) (s : State) : (acceptCommand c s).sb = s.sb := rfl
@[simp] theorem acceptCommand_dg (c : Word32) (s : State) : (acceptCommand c s).dg = s.dg := rfl
@[simp] theorem acceptCommand_seed (c : Word32) (s : State) : (acceptCommand c s).seed = s.seed := rfl
@[simp] theorem acceptCommand_msgLen (c : Word32) (s : State) : (acceptCommand c s).msgLen = s.msgLen := rfl
@[simp] theorem acceptCommand_msgAddr (c : Word32) (s : State) : (acceptCommand c s).msgAddr = s.msgAddr := rfl
@[simp] theorem acceptCommand_status (c : Word32) (s : State) : (acceptCommand c s).status = statusAccepted s.status := rfl
@[simp] theorem acceptCommand_cur (c : Word32) (s : State) : (acceptCommand c s).cur = c := rfl
@[simp] theorem acceptCommand_pass (c : Word32) (s : State) : (acceptCommand c s).pass = s.pass := rfl
@[simp] theorem acceptCommand_snap (c : Word32) (s : State) : (acceptCommand c s).snap = s.snap := rfl
@[simp] theorem acceptCommand_mem (c : Word32) (s : State) : (acceptCommand c s).mem = s.mem := rfl
@[simp] theorem acceptCommand_raced (c : Word32) (s : State) : (acceptCommand c s).raced = [] := rfl
@[simp] theorem acceptCommand_hostRead (c : Word32) (s : State) : (acceptCommand c s).hostRead = s.hostRead := rfl
@[simp] theorem acceptCommand_inputs (c : Word32) (s : State) : (acceptCommand c s).inputs = s.inputs := rfl
@[simp] theorem acceptCommand_draws (c : Word32) (s : State) : (acceptCommand c s).draws = s.draws := rfl

/-! The fields after completion (R89). -/

@[simp] theorem completeCommand_params (s : State) : (completeCommand s).params = s.params := rfl
@[simp] theorem completeCommand_st (s : State) : (completeCommand s).st = s.st := rfl
@[simp] theorem completeCommand_sb (s : State) : (completeCommand s).sb = s.sb := rfl
@[simp] theorem completeCommand_dg (s : State) : (completeCommand s).dg = s.dg := rfl
@[simp] theorem completeCommand_seed (s : State) : (completeCommand s).seed = s.seed := rfl
@[simp] theorem completeCommand_msgLen (s : State) : (completeCommand s).msgLen = s.msgLen := rfl
@[simp] theorem completeCommand_msgAddr (s : State) : (completeCommand s).msgAddr = s.msgAddr := rfl
@[simp] theorem completeCommand_status (s : State) : (completeCommand s).status = statusCompleted none s.status := rfl
@[simp] theorem completeCommand_cur (s : State) : (completeCommand s).cur = s.cur := rfl
@[simp] theorem completeCommand_pass (s : State) : (completeCommand s).pass = s.pass := rfl
@[simp] theorem completeCommand_snap (s : State) : (completeCommand s).snap = s.snap := rfl
@[simp] theorem completeCommand_mem (s : State) : (completeCommand s).mem = s.mem := rfl
@[simp] theorem completeCommand_raced (s : State) : (completeCommand s).raced = s.raced := rfl
@[simp] theorem completeCommand_hostRead (s : State) : (completeCommand s).hostRead = s.hostRead := rfl
@[simp] theorem completeCommand_inputs (s : State) : (completeCommand s).inputs = s.inputs := rfl
@[simp] theorem completeCommand_draws (s : State) : (completeCommand s).draws = s.draws := rfl

/-! The fields after an error (R153). -/

@[simp] theorem raiseError_params (e : ErrorCode) (s : State) : (raiseError e s).params = s.params := rfl
@[simp] theorem raiseError_st (e : ErrorCode) (s : State) : (raiseError e s).st = s.st := rfl
@[simp] theorem raiseError_sb (e : ErrorCode) (s : State) : (raiseError e s).sb = s.sb := rfl
@[simp] theorem raiseError_dg (e : ErrorCode) (s : State) : (raiseError e s).dg = s.dg := rfl
@[simp] theorem raiseError_seed (e : ErrorCode) (s : State) : (raiseError e s).seed = s.seed := rfl
@[simp] theorem raiseError_msgLen (e : ErrorCode) (s : State) : (raiseError e s).msgLen = s.msgLen := rfl
@[simp] theorem raiseError_msgAddr (e : ErrorCode) (s : State) : (raiseError e s).msgAddr = s.msgAddr := rfl
@[simp] theorem raiseError_status (e : ErrorCode) (s : State) : (raiseError e s).status = statusCompleted (some e) s.status := rfl
@[simp] theorem raiseError_cur (e : ErrorCode) (s : State) : (raiseError e s).cur = s.cur := rfl
@[simp] theorem raiseError_pass (e : ErrorCode) (s : State) : (raiseError e s).pass = s.pass := rfl
@[simp] theorem raiseError_snap (e : ErrorCode) (s : State) : (raiseError e s).snap = s.snap := rfl
@[simp] theorem raiseError_mem (e : ErrorCode) (s : State) : (raiseError e s).mem = s.mem := rfl
@[simp] theorem raiseError_raced (e : ErrorCode) (s : State) : (raiseError e s).raced = s.raced := rfl
@[simp] theorem raiseError_hostRead (e : ErrorCode) (s : State) : (raiseError e s).hostRead = s.hostRead := rfl
@[simp] theorem raiseError_inputs (e : ErrorCode) (s : State) : (raiseError e s).inputs = s.inputs := rfl
@[simp] theorem raiseError_draws (e : ErrorCode) (s : State) : (raiseError e s).draws = s.draws := rfl

/-! The fields after BUS_ERROR (R154). -/

@[simp] theorem raiseBusError_params (s : State) : (raiseBusError s).params = s.params := rfl
@[simp] theorem raiseBusError_st (s : State) : (raiseBusError s).st = Config.drawWords8 s.draws := rfl
@[simp] theorem raiseBusError_sb (s : State) : (raiseBusError s).sb = s.sb := rfl
@[simp] theorem raiseBusError_dg (s : State) : (raiseBusError s).dg = s.dg := rfl
@[simp] theorem raiseBusError_seed (s : State) : (raiseBusError s).seed = s.seed := rfl
@[simp] theorem raiseBusError_msgLen (s : State) : (raiseBusError s).msgLen = s.msgLen := rfl
@[simp] theorem raiseBusError_msgAddr (s : State) : (raiseBusError s).msgAddr = s.msgAddr := rfl
@[simp] theorem raiseBusError_status (s : State) : (raiseBusError s).status = statusCompleted (some .busError) { s.status with stateValid := false } := rfl
@[simp] theorem raiseBusError_cur (s : State) : (raiseBusError s).cur = s.cur := rfl
@[simp] theorem raiseBusError_pass (s : State) : (raiseBusError s).pass = s.pass := rfl
@[simp] theorem raiseBusError_snap (s : State) : (raiseBusError s).snap = s.snap := rfl
@[simp] theorem raiseBusError_mem (s : State) : (raiseBusError s).mem = s.mem := rfl
@[simp] theorem raiseBusError_raced (s : State) : (raiseBusError s).raced = s.raced := rfl
@[simp] theorem raiseBusError_hostRead (s : State) : (raiseBusError s).hostRead = s.hostRead := rfl
@[simp] theorem raiseBusError_inputs (s : State) : (raiseBusError s).inputs = s.inputs := rfl
@[simp] theorem raiseBusError_draws (s : State) : (raiseBusError s).draws = s.draws + 8 := rfl

/-! The fields after the initialisation (R97). -/

@[simp] theorem initialiseState_params (s : State) : (initialiseState s).params = s.params := rfl
@[simp] theorem initialiseState_st (s : State) : (initialiseState s).st = s.params.initStore.words := rfl
@[simp] theorem initialiseState_sb (s : State) : (initialiseState s).sb = s.sb := rfl
@[simp] theorem initialiseState_dg (s : State) : (initialiseState s).dg = #v[0, 0, 0, 0] := rfl
@[simp] theorem initialiseState_seed (s : State) : (initialiseState s).seed = s.seed := rfl
@[simp] theorem initialiseState_msgLen (s : State) : (initialiseState s).msgLen = s.msgLen := rfl
@[simp] theorem initialiseState_msgAddr (s : State) : (initialiseState s).msgAddr = s.msgAddr := rfl
@[simp] theorem initialiseState_status (s : State) : (initialiseState s).status = statusInitialised s.status := rfl
@[simp] theorem initialiseState_cur (s : State) : (initialiseState s).cur = s.cur := rfl
@[simp] theorem initialiseState_pass (s : State) : (initialiseState s).pass = s.pass := rfl
@[simp] theorem initialiseState_snap (s : State) : (initialiseState s).snap = s.snap := rfl
@[simp] theorem initialiseState_mem (s : State) : (initialiseState s).mem = s.mem := rfl
@[simp] theorem initialiseState_raced (s : State) : (initialiseState s).raced = s.raced := rfl
@[simp] theorem initialiseState_hostRead (s : State) : (initialiseState s).hostRead = s.hostRead := rfl
@[simp] theorem initialiseState_inputs (s : State) : (initialiseState s).inputs = s.inputs := rfl
@[simp] theorem initialiseState_draws (s : State) : (initialiseState s).draws = s.draws := rfl

/-! The fields after the seed expansion (R101). -/

@[simp] theorem expandSeedBuffer_params (s : State) : (expandSeedBuffer s).params = s.params := rfl
@[simp] theorem expandSeedBuffer_st (s : State) : (expandSeedBuffer s).st = s.st := rfl
@[simp] theorem expandSeedBuffer_sb (s : State) : (expandSeedBuffer s).sb = expandSeed s.seed := rfl
@[simp] theorem expandSeedBuffer_dg (s : State) : (expandSeedBuffer s).dg = s.dg := rfl
@[simp] theorem expandSeedBuffer_seed (s : State) : (expandSeedBuffer s).seed = s.seed := rfl
@[simp] theorem expandSeedBuffer_msgLen (s : State) : (expandSeedBuffer s).msgLen = s.msgLen := rfl
@[simp] theorem expandSeedBuffer_msgAddr (s : State) : (expandSeedBuffer s).msgAddr = s.msgAddr := rfl
@[simp] theorem expandSeedBuffer_status (s : State) : (expandSeedBuffer s).status = statusSeedExpanded s.status := rfl
@[simp] theorem expandSeedBuffer_cur (s : State) : (expandSeedBuffer s).cur = s.cur := rfl
@[simp] theorem expandSeedBuffer_pass (s : State) : (expandSeedBuffer s).pass = s.pass := rfl
@[simp] theorem expandSeedBuffer_snap (s : State) : (expandSeedBuffer s).snap = s.snap := rfl
@[simp] theorem expandSeedBuffer_mem (s : State) : (expandSeedBuffer s).mem = s.mem := rfl
@[simp] theorem expandSeedBuffer_raced (s : State) : (expandSeedBuffer s).raced = s.raced := rfl
@[simp] theorem expandSeedBuffer_hostRead (s : State) : (expandSeedBuffer s).hostRead = s.hostRead := rfl
@[simp] theorem expandSeedBuffer_inputs (s : State) : (expandSeedBuffer s).inputs = s.inputs := rfl
@[simp] theorem expandSeedBuffer_draws (s : State) : (expandSeedBuffer s).draws = s.draws := rfl

/-! The fields after the finalisation (R131). -/

@[simp] theorem finaliseState_params (s : State) : (finaliseState s).params = s.params := rfl
@[simp] theorem finaliseState_st (s : State) : (finaliseState s).st = s.st := rfl
@[simp] theorem finaliseState_sb (s : State) : (finaliseState s).sb = s.sb := rfl
@[simp] theorem finaliseState_dg (s : State) : (finaliseState s).dg = #v[finWord s.st, 0, 0, 0] := rfl
@[simp] theorem finaliseState_seed (s : State) : (finaliseState s).seed = s.seed := rfl
@[simp] theorem finaliseState_msgLen (s : State) : (finaliseState s).msgLen = s.msgLen := rfl
@[simp] theorem finaliseState_msgAddr (s : State) : (finaliseState s).msgAddr = s.msgAddr := rfl
@[simp] theorem finaliseState_status (s : State) : (finaliseState s).status = statusFinalised s.status := rfl
@[simp] theorem finaliseState_cur (s : State) : (finaliseState s).cur = s.cur := rfl
@[simp] theorem finaliseState_pass (s : State) : (finaliseState s).pass = s.pass := rfl
@[simp] theorem finaliseState_snap (s : State) : (finaliseState s).snap = s.snap := rfl
@[simp] theorem finaliseState_mem (s : State) : (finaliseState s).mem = s.mem := rfl
@[simp] theorem finaliseState_raced (s : State) : (finaliseState s).raced = s.raced := rfl
@[simp] theorem finaliseState_hostRead (s : State) : (finaliseState s).hostRead = s.hostRead := rfl
@[simp] theorem finaliseState_inputs (s : State) : (finaliseState s).inputs = s.inputs := rfl
@[simp] theorem finaliseState_draws (s : State) : (finaliseState s).draws = s.draws := rfl

/-! The fields after the end of a pass (R112). -/

@[simp] theorem writePipe_params (x : Pipe) (s : State) : (writePipe x s).params = s.params := rfl
@[simp] theorem writePipe_st (x : Pipe) (s : State) : (writePipe x s).st = x.st := rfl
@[simp] theorem writePipe_sb (x : Pipe) (s : State) : (writePipe x s).sb = s.sb := rfl
@[simp] theorem writePipe_dg (x : Pipe) (s : State) : (writePipe x s).dg = s.dg := rfl
@[simp] theorem writePipe_seed (x : Pipe) (s : State) : (writePipe x s).seed = s.seed := rfl
@[simp] theorem writePipe_msgLen (x : Pipe) (s : State) : (writePipe x s).msgLen = s.msgLen := rfl
@[simp] theorem writePipe_msgAddr (x : Pipe) (s : State) : (writePipe x s).msgAddr = s.msgAddr := rfl
@[simp] theorem writePipe_status (x : Pipe) (s : State) : (writePipe x s).status = s.status := rfl
@[simp] theorem writePipe_cur (x : Pipe) (s : State) : (writePipe x s).cur = s.cur := rfl
@[simp] theorem writePipe_pass (x : Pipe) (s : State) : (writePipe x s).pass = x.pass := rfl
@[simp] theorem writePipe_snap (x : Pipe) (s : State) : (writePipe x s).snap = s.snap := rfl
@[simp] theorem writePipe_mem (x : Pipe) (s : State) : (writePipe x s).mem = s.mem := rfl
@[simp] theorem writePipe_raced (x : Pipe) (s : State) : (writePipe x s).raced = s.raced := rfl
@[simp] theorem writePipe_hostRead (x : Pipe) (s : State) : (writePipe x s).hostRead = s.hostRead := rfl
@[simp] theorem writePipe_inputs (x : Pipe) (s : State) : (writePipe x s).inputs = s.inputs := rfl
@[simp] theorem writePipe_draws (x : Pipe) (s : State) : (writePipe x s).draws = s.draws := rfl

/-! The fields after the rest of HASH's BUS_ERROR (R154). -/

@[simp] theorem dropSeedBuffer_params (s : State) : (dropSeedBuffer s).params = s.params := rfl
@[simp] theorem dropSeedBuffer_st (s : State) : (dropSeedBuffer s).st = s.st := rfl
@[simp] theorem dropSeedBuffer_sb (s : State) : (dropSeedBuffer s).sb = s.sb := rfl
@[simp] theorem dropSeedBuffer_dg (s : State) : (dropSeedBuffer s).dg = s.dg := rfl
@[simp] theorem dropSeedBuffer_seed (s : State) : (dropSeedBuffer s).seed = s.seed := rfl
@[simp] theorem dropSeedBuffer_msgLen (s : State) : (dropSeedBuffer s).msgLen = s.msgLen := rfl
@[simp] theorem dropSeedBuffer_msgAddr (s : State) : (dropSeedBuffer s).msgAddr = s.msgAddr := rfl
@[simp] theorem dropSeedBuffer_status (s : State) : (dropSeedBuffer s).status = { s.status with seedbufValid := false } := rfl
@[simp] theorem dropSeedBuffer_cur (s : State) : (dropSeedBuffer s).cur = s.cur := rfl
@[simp] theorem dropSeedBuffer_pass (s : State) : (dropSeedBuffer s).pass = s.pass := rfl
@[simp] theorem dropSeedBuffer_snap (s : State) : (dropSeedBuffer s).snap = s.snap := rfl
@[simp] theorem dropSeedBuffer_mem (s : State) : (dropSeedBuffer s).mem = s.mem := rfl
@[simp] theorem dropSeedBuffer_raced (s : State) : (dropSeedBuffer s).raced = s.raced := rfl
@[simp] theorem dropSeedBuffer_hostRead (s : State) : (dropSeedBuffer s).hostRead = s.hostRead := rfl
@[simp] theorem dropSeedBuffer_inputs (s : State) : (dropSeedBuffer s).inputs = s.inputs := rfl
@[simp] theorem dropSeedBuffer_draws (s : State) : (dropSeedBuffer s).draws = s.draws := rfl

/-! The fields after a dropped host write (R32). -/

@[simp] theorem dropWrite_params (s : State) : (dropWrite s).params = s.params := rfl
@[simp] theorem dropWrite_st (s : State) : (dropWrite s).st = s.st := rfl
@[simp] theorem dropWrite_sb (s : State) : (dropWrite s).sb = s.sb := rfl
@[simp] theorem dropWrite_dg (s : State) : (dropWrite s).dg = s.dg := rfl
@[simp] theorem dropWrite_seed (s : State) : (dropWrite s).seed = s.seed := rfl
@[simp] theorem dropWrite_msgLen (s : State) : (dropWrite s).msgLen = s.msgLen := rfl
@[simp] theorem dropWrite_msgAddr (s : State) : (dropWrite s).msgAddr = s.msgAddr := rfl
@[simp] theorem dropWrite_status (s : State) : (dropWrite s).status = statusOverrun s.status := rfl
@[simp] theorem dropWrite_cur (s : State) : (dropWrite s).cur = s.cur := rfl
@[simp] theorem dropWrite_pass (s : State) : (dropWrite s).pass = s.pass := rfl
@[simp] theorem dropWrite_snap (s : State) : (dropWrite s).snap = s.snap := rfl
@[simp] theorem dropWrite_mem (s : State) : (dropWrite s).mem = s.mem := rfl
@[simp] theorem dropWrite_raced (s : State) : (dropWrite s).raced = s.raced := rfl
@[simp] theorem dropWrite_hostRead (s : State) : (dropWrite s).hostRead = s.hostRead := rfl
@[simp] theorem dropWrite_inputs (s : State) : (dropWrite s).inputs = s.inputs := rfl
@[simp] theorem dropWrite_draws (s : State) : (dropWrite s).draws = s.draws := rfl

/-! The fields after reset (R46, R170). -/

@[simp] theorem resetBlock_params (s : State) : (resetBlock s).params = s.params := rfl
@[simp] theorem resetBlock_st (s : State) : (resetBlock s).st = Config.drawWords8 s.draws := rfl
@[simp] theorem resetBlock_sb (s : State) : (resetBlock s).sb = Config.drawWords4 (s.draws + 8) := rfl
@[simp] theorem resetBlock_dg (s : State) : (resetBlock s).dg = #v[0, 0, 0, 0] := rfl
@[simp] theorem resetBlock_seed (s : State) : (resetBlock s).seed = 0 := rfl
@[simp] theorem resetBlock_msgLen (s : State) : (resetBlock s).msgLen = 0 := rfl
@[simp] theorem resetBlock_msgAddr (s : State) : (resetBlock s).msgAddr = 0 := rfl
@[simp] theorem resetBlock_status (s : State) : (resetBlock s).status = Status.zero := rfl
@[simp] theorem resetBlock_cur (s : State) : (resetBlock s).cur = Config.draw 32 (s.draws + 12) := rfl
@[simp] theorem resetBlock_pass (s : State) : (resetBlock s).pass = Pass.drawn (s.draws + 13) := rfl
@[simp] theorem resetBlock_snap (s : State) : (resetBlock s).snap = Config.drawWords8 (s.draws + 19) := rfl
@[simp] theorem resetBlock_mem (s : State) : (resetBlock s).mem = s.mem := rfl
@[simp] theorem resetBlock_raced (s : State) : (resetBlock s).raced = [] := rfl
@[simp] theorem resetBlock_hostRead (s : State) : (resetBlock s).hostRead = s.hostRead := rfl
@[simp] theorem resetBlock_inputs (s : State) : (resetBlock s).inputs = s.inputs := rfl
@[simp] theorem resetBlock_draws (s : State) : (resetBlock s).draws = s.draws + 27 := rfl

/-! The fields of STATUS after acceptance (R86). -/

@[simp] theorem statusAccepted_busy (f : Status) : (statusAccepted f).busy = true := rfl
@[simp] theorem statusAccepted_done (f : Status) : (statusAccepted f).done = false := rfl
@[simp] theorem statusAccepted_err (f : Status) : (statusAccepted f).err = false := rfl
@[simp] theorem statusAccepted_ovr (f : Status) : (statusAccepted f).ovr = false := rfl
@[simp] theorem statusAccepted_errcode (f : Status) : (statusAccepted f).errcode = 0 := rfl
@[simp] theorem statusAccepted_stateValid (f : Status) : (statusAccepted f).stateValid = f.stateValid := rfl
@[simp] theorem statusAccepted_seedbufValid (f : Status) : (statusAccepted f).seedbufValid = f.seedbufValid := rfl
@[simp] theorem statusAccepted_digestValid (f : Status) : (statusAccepted f).digestValid = f.digestValid := rfl

/-! The fields of STATUS after a completion without an error (R89). -/

@[simp] theorem statusCompleted_none_busy (f : Status) : (statusCompleted none f).busy = false := rfl
@[simp] theorem statusCompleted_none_done (f : Status) : (statusCompleted none f).done = true := rfl
@[simp] theorem statusCompleted_none_err (f : Status) : (statusCompleted none f).err = false := rfl
@[simp] theorem statusCompleted_none_ovr (f : Status) : (statusCompleted none f).ovr = f.ovr := rfl
@[simp] theorem statusCompleted_none_errcode (f : Status) : (statusCompleted none f).errcode = 0 := rfl
@[simp] theorem statusCompleted_none_stateValid (f : Status) : (statusCompleted none f).stateValid = f.stateValid := rfl
@[simp] theorem statusCompleted_none_seedbufValid (f : Status) : (statusCompleted none f).seedbufValid = f.seedbufValid := rfl
@[simp] theorem statusCompleted_none_digestValid (f : Status) : (statusCompleted none f).digestValid = f.digestValid := rfl

/-! The fields of STATUS after a completion with an error (R31). -/

@[simp] theorem statusCompleted_some_busy (e : ErrorCode) (f : Status) : (statusCompleted (some e) f).busy = false := rfl
@[simp] theorem statusCompleted_some_done (e : ErrorCode) (f : Status) : (statusCompleted (some e) f).done = true := rfl
@[simp] theorem statusCompleted_some_err (e : ErrorCode) (f : Status) : (statusCompleted (some e) f).err = true := rfl
@[simp] theorem statusCompleted_some_ovr (e : ErrorCode) (f : Status) : (statusCompleted (some e) f).ovr = f.ovr := rfl
@[simp] theorem statusCompleted_some_errcode (e : ErrorCode) (f : Status) : (statusCompleted (some e) f).errcode = errorNumber e := rfl
@[simp] theorem statusCompleted_some_stateValid (e : ErrorCode) (f : Status) : (statusCompleted (some e) f).stateValid = f.stateValid := rfl
@[simp] theorem statusCompleted_some_seedbufValid (e : ErrorCode) (f : Status) : (statusCompleted (some e) f).seedbufValid = f.seedbufValid := rfl
@[simp] theorem statusCompleted_some_digestValid (e : ErrorCode) (f : Status) : (statusCompleted (some e) f).digestValid = f.digestValid := rfl

/-! The fields of STATUS after a dropped write (R32). -/

@[simp] theorem statusOverrun_busy (f : Status) : (statusOverrun f).busy = f.busy := rfl
@[simp] theorem statusOverrun_done (f : Status) : (statusOverrun f).done = f.done := rfl
@[simp] theorem statusOverrun_err (f : Status) : (statusOverrun f).err = f.err := rfl
@[simp] theorem statusOverrun_ovr (f : Status) : (statusOverrun f).ovr = true := rfl
@[simp] theorem statusOverrun_errcode (f : Status) : (statusOverrun f).errcode = f.errcode := rfl
@[simp] theorem statusOverrun_stateValid (f : Status) : (statusOverrun f).stateValid = f.stateValid := rfl
@[simp] theorem statusOverrun_seedbufValid (f : Status) : (statusOverrun f).seedbufValid = f.seedbufValid := rfl
@[simp] theorem statusOverrun_digestValid (f : Status) : (statusOverrun f).digestValid = f.digestValid := rfl

/-! The fields of STATUS after the initialisation (R33, R35). -/

@[simp] theorem statusInitialised_busy (f : Status) : (statusInitialised f).busy = f.busy := rfl
@[simp] theorem statusInitialised_done (f : Status) : (statusInitialised f).done = f.done := rfl
@[simp] theorem statusInitialised_err (f : Status) : (statusInitialised f).err = f.err := rfl
@[simp] theorem statusInitialised_ovr (f : Status) : (statusInitialised f).ovr = f.ovr := rfl
@[simp] theorem statusInitialised_errcode (f : Status) : (statusInitialised f).errcode = f.errcode := rfl
@[simp] theorem statusInitialised_stateValid (f : Status) : (statusInitialised f).stateValid = true := rfl
@[simp] theorem statusInitialised_seedbufValid (f : Status) : (statusInitialised f).seedbufValid = f.seedbufValid := rfl
@[simp] theorem statusInitialised_digestValid (f : Status) : (statusInitialised f).digestValid = false := rfl

/-! The fields of STATUS after the seed expansion (R34). -/

@[simp] theorem statusSeedExpanded_busy (f : Status) : (statusSeedExpanded f).busy = f.busy := rfl
@[simp] theorem statusSeedExpanded_done (f : Status) : (statusSeedExpanded f).done = f.done := rfl
@[simp] theorem statusSeedExpanded_err (f : Status) : (statusSeedExpanded f).err = f.err := rfl
@[simp] theorem statusSeedExpanded_ovr (f : Status) : (statusSeedExpanded f).ovr = f.ovr := rfl
@[simp] theorem statusSeedExpanded_errcode (f : Status) : (statusSeedExpanded f).errcode = f.errcode := rfl
@[simp] theorem statusSeedExpanded_stateValid (f : Status) : (statusSeedExpanded f).stateValid = f.stateValid := rfl
@[simp] theorem statusSeedExpanded_seedbufValid (f : Status) : (statusSeedExpanded f).seedbufValid = true := rfl
@[simp] theorem statusSeedExpanded_digestValid (f : Status) : (statusSeedExpanded f).digestValid = f.digestValid := rfl

/-! The fields of STATUS after the finalisation (R33 to R35). -/

@[simp] theorem statusFinalised_busy (f : Status) : (statusFinalised f).busy = f.busy := rfl
@[simp] theorem statusFinalised_done (f : Status) : (statusFinalised f).done = f.done := rfl
@[simp] theorem statusFinalised_err (f : Status) : (statusFinalised f).err = f.err := rfl
@[simp] theorem statusFinalised_ovr (f : Status) : (statusFinalised f).ovr = f.ovr := rfl
@[simp] theorem statusFinalised_errcode (f : Status) : (statusFinalised f).errcode = f.errcode := rfl
@[simp] theorem statusFinalised_stateValid (f : Status) : (statusFinalised f).stateValid = false := rfl
@[simp] theorem statusFinalised_seedbufValid (f : Status) : (statusFinalised f).seedbufValid = false := rfl
@[simp] theorem statusFinalised_digestValid (f : Status) : (statusFinalised f).digestValid = true := rfl

end Sys2Proof.Machine
end

