-- ==== Sys2Proof/Laws/Ops.lean ====
section
/-! SUPPORT. For the shared operations, one lemma each that says once everything the operation can do. -/

namespace Sys2Proof.Machine

/-- A rotation by 0 keeps the value (R12). -/
theorem rotr64_zero (x : Word64) : rotr64 x 0 = x := by simp [rotr64]

/-- An operand field names a pivot exactly when it is not 7 (R73, R77). -/
theorem mixPivot_eq_none_iff (a : BitVec 3) : mixPivot a = none ↔ a = 7 := by
  revert a; decide

theorem mixPivot_of_legal {a : BitVec 3} (h : pivotLegal a = true) :
    ∃ p : Fin 7, mixPivot a = some p ∧ p.val = a.toNat := by
  unfold pivotLegal at h
  have h' : a.toNat < 7 := by simp at h; omega
  exact ⟨⟨a.toNat, h'⟩, by simp [mixPivot, h'], rfl⟩

/-- `mix(A)` by its half-steps (R110), word by word. -/
theorem mix_get (a : Fin 7) (st : Words) (k : Nat) (hk : k < 8) :
    (mix a st)[k] =
      if k = a.val + 1 then mixHalf (st[a.val + 1] ^^^ mixHalf st[a.val])
      else if k = a.val then mixHalf st[a.val] else st[k] := by
  have ha := a.isLt
  simp only [mix, Vector.getElem_set]
  by_cases h1 : k = a.val + 1
  · subst h1; simp
  · by_cases h2 : k = a.val
    · subst h2; simp
    · rw [if_neg (by omega), if_neg (by omega), if_neg (by omega), if_neg h1, if_neg h2]

/-- A data source that always answers is read as the list of its bytes (R15). -/
theorem readBytes_total (f : Nat → Byte) (a n : Nat) :
    readBytes (fun k => some (f k)) a n = some ((List.range n).map (fun k => f (a + k))) := by
  induction n generalizing a with
  | zero => rfl
  | succ n ih =>
    simp only [readBytes, ih, List.range_succ_eq_map, List.map_cons, List.map_map, Nat.add_zero, Option.some.injEq,
      List.cons.injEq, true_and]
    apply List.map_congr_left
    intro k _
    simp only [Function.comp_apply]
    congr 1
    omega

/-- A read of several bytes depends only on those bytes. -/
theorem readBytes_congr {d e : Nat → Option Byte} {a n : Nat} (h : ∀ k, a ≤ k → k < a + n → d k = e k) :
    readBytes d a n = readBytes e a n := by
  induction n generalizing a with
  | zero => rfl
  | succ n ih =>
    simp only [readBytes]
    rw [h a (by omega) (by omega), ih (fun k h1 h2 => h k (by omega) (by omega))]

/-- A word phase depends only on the bytes of its data words. -/
theorem wordPhase_congr {d e : Nat → Option Byte} {n : Nat} {x : Pipe} (h : ∀ k, k < 8 * n → d k = e k) :
    wordPhase d n x = wordPhase e n x := by
  induction n with
  | zero => rfl
  | succ n ih =>
    simp only [wordPhase, wordStep]
    rw [ih (fun k hk => h k (by omega)),
      readBytes_congr (d := d) (e := e) (fun k h1 h2 => h k (by omega))]

/-- A byte phase depends only on its bytes. -/
theorem bytePhase_congr {d e : Nat → Option Byte} {start n : Nat} {x : Pipe}
    (h : ∀ k, start ≤ k → k < start + n → d k = e k) : bytePhase d start n x = bytePhase e start n x := by
  induction n with
  | zero => rfl
  | succ n ih =>
    simp only [bytePhase, byteStep]
    rw [ih (fun k h1 h2 => h k h1 (by omega)), h (start + n) (by omega) (by omega)]

/-- A pass of L bytes depends only on the bytes 0 to L - 1 of its data (R112). -/
theorem absorb_congr {d e : Nat → Option Byte} {len : Nat} (p : Config.Params) (st : Words)
    (h : ∀ k, k < len → d k = e k) : absorb p d len st = absorb p e len st := by
  unfold absorb
  rw [wordPhase_congr (fun k hk => h k (by omega))]
  cases wordPhase e (len / 8) (startPass p len st) with
  | error x => rfl
  | ok x =>
    simp only
    rw [bytePhase_congr (fun k _ hk => h k (by omega))]

/-- A word phase over data that always answers does not fail. -/
theorem wordPhase_total (f : Nat → Byte) (n : Nat) (x : Pipe) : ∃ y, wordPhase (fun k => some (f k)) n x = .ok y := by
  induction n with
  | zero => exact ⟨x, rfl⟩
  | succ n ih =>
    obtain ⟨y, hy⟩ := ih
    simp only [wordPhase, hy, wordStep, readBytes_total]
    exact ⟨_, rfl⟩

/-- A byte phase over data that always answers does not fail. -/
theorem bytePhase_total (f : Nat → Byte) (start n : Nat) (x : Pipe) :
    ∃ y, bytePhase (fun k => some (f k)) start n x = .ok y := by
  induction n with
  | zero => exact ⟨x, rfl⟩
  | succ n ih =>
    obtain ⟨y, hy⟩ := ih
    simp only [bytePhase, hy, byteStep]
    exact ⟨_, rfl⟩

/-- A pass whose every byte can be read does not fail (R112: only a data read can fail). -/
theorem absorb_total {d : Nat → Option Byte} {len : Nat} (p : Config.Params) (st : Words)
    (h : ∀ k, k < len → (d k).isSome = true) : ∃ x, absorb p d len st = .ok x := by
  have hc : absorb p d len st = absorb p (fun k => some ((d k).getD 0)) len st := by
    apply absorb_congr
    intro k hk
    obtain ⟨b, hb⟩ := Option.isSome_iff_exists.mp (h k hk)
    simp [hb]
  rw [hc]
  unfold absorb
  obtain ⟨y, hy⟩ := wordPhase_total (fun k => (d k).getD 0) (len / 8) (startPass p len st)
  obtain ⟨z, hz⟩ := bytePhase_total (fun k => (d k).getD 0) (8 * (len / 8)) (len % 8) (wordFlush y)
  simp only [hy, hz]
  exact ⟨_, rfl⟩

/-- The pass over the seed buffer ends as some pipeline put back (R124). -/
theorem absorbSeedBuffer_eq (s : State) :
    ∃ x, absorb s.params (seedbufByte s.sb) 16 s.st = .ok x ∧ absorbSeedBuffer s = writePipe x s := by
  obtain ⟨x, hx⟩ := absorb_total (d := seedbufByte s.sb) (len := 16) s.params s.st (fun _ _ => rfl)
  exact ⟨x, hx, by simp only [absorbSeedBuffer, hx]⟩

/-- The pass over the State's own image takes the snapshot and ends as some pipeline put back (R126). -/
theorem absorbSelf_eq (s : State) :
    ∃ x, absorb s.params (snapByte s.st) 64 s.st = .ok x ∧ absorbSelf s = writePipe x { s with snap := s.st } := by
  obtain ⟨x, hx⟩ := absorb_total (d := snapByte s.st) (len := 64) s.params s.st (fun _ _ => rfl)
  exact ⟨x, hx, by simp only [absorbSelf, hx]⟩

/-- A message byte can be read exactly when its address has `MemAdmit` (R151). -/
theorem messageByte_isSome (s : State) (n : Nat) :
    (messageByte s n).isSome = memAdmits s.params (s.msgAddr.toNat + n) := by
  unfold messageByte
  split
  · split <;> simp_all
  · simp_all

/-- Everything the message pass can do (R122, R151): a pipeline put back, after all of the pass or as an error found it. -/
theorem absorbMessage_cases (s : State) :
    (∃ x, absorb s.params (messageByte s) (msgCount s) s.st = .ok x ∧
      absorbMessage s = .ok { writePipe x s with draws := s.draws + msgCount s }) ∨
    (∃ x, absorb s.params (messageByte s) (msgCount s) s.st = .error x ∧
      absorbMessage s = .error { writePipe x s with draws := s.draws + msgCount s }) := by
  unfold absorbMessage
  cases h : absorb s.params (messageByte s) (msgCount s) s.st with
  | ok x => exact .inl ⟨x, rfl, rfl⟩
  | error x => exact .inr ⟨x, rfl, rfl⟩

/-- The argument checks of the model are the spec's (R149). -/
theorem messageInvalid_eq_false_iff (s : State) : messageInvalid s = false ↔ ArgsLegal s := by
  simp only [messageInvalid, Bool.or_eq_false_iff, Bool.and_eq_false_iff, decide_eq_false_iff_not, Int.not_lt, Nat.not_lt]
  simp only [ArgsLegal, msgLength, msgCount, memSize, nullAddr]
  constructor
  · rintro ⟨⟨h1, h2⟩, h3⟩
    refine ⟨h1, fun hp => ⟨?_, ?_⟩⟩
    · rcases h2 with h | h
      · omega
      · exact h
    · rcases h3 with h | h
      · omega
      · exact h
  · rintro ⟨h1, h2⟩
    by_cases hp : 0 < s.msgLen.toInt
    · exact ⟨⟨h1, .inr (h2 hp).1⟩, .inr (h2 hp).2⟩
    · exact ⟨⟨h1, .inl (by omega)⟩, .inl (by omega)⟩

/-- A range of addresses meets a region exactly when one of its addresses is in it. -/
theorem meetsRegion_eq_false_iff (base len : Nat) (r : Config.Region) :
    meetsRegion base len r = false ↔ ∀ n, n < len → inRegion r (base + n) = false := by
  simp only [meetsRegion, inRegion, decide_eq_false_iff_not]
  constructor
  · intro h n hn hr
    exact h ⟨by omega, by omega, by omega, by omega⟩
  · intro h hr
    by_cases hb : r.base ≤ base
    · exact h 0 (by omega) ⟨by omega, by omega⟩
    · exact h (r.base - base) (by omega) ⟨by omega, by omega⟩

/-- The launch check of the model is the spec's (R61). -/
theorem messageNotIdempotent_eq_false_iff (s : State) : messageNotIdempotent s = false ↔ MessagePlain s := by
  simp only [messageNotIdempotent, meetsSideEffects, Bool.and_eq_false_iff, decide_eq_false_iff_not, List.any_eq_false,
    Bool.not_eq_true, meetsRegion_eq_false_iff]
  simp only [MessagePlain, msgCount, msgLength]
  constructor
  · rintro (h | h) n hn r hr
    · omega
    · exact h r hr n hn
  · intro h
    exact .inr (fun r hr n hn => h n hn r hr)

/-- Everything a word presented to CMD can do (R86, R88): its command is accepted, or it ends at once in its decoding error. -/
theorem presentCommand_cases (c : Word32) (s : State) :
    (∃ i, decode c = .ok i ∧ presentCommand c s = acceptCommand c s) ∨
    (∃ e, decode c = .error e ∧ presentCommand c s = raiseError e (acceptCommand c s)) := by
  unfold presentCommand
  cases h : decode c with
  | ok i => exact .inl ⟨i, rfl, rfl⟩
  | error e => exact .inr ⟨e, rfl, rfl⟩

/-- Everything MIX can do (R107). -/
theorem execMix_next {a : BitVec 3} {s t : State} (h : execMix a s = .next t) :
    (mixPivot a = none ∧ t = raiseError .badOperand s) ∨
    (∃ p, mixPivot a = some p ∧ s.status.stateValid = true ∧ t = completeCommand { s with st := mix p s.st }) ∨
    (∃ p, mixPivot a = some p ∧ s.status.stateValid = false ∧ t = raiseError .stateNotValid s) := by
  unfold execMix at h
  cases hp : mixPivot a with
  | none => simp_all
  | some p =>
    cases hv : s.status.stateValid <;> simp_all

/-- Everything ABSM can do (R122). -/
theorem execAbsm_next {s t : State} (h : execAbsm s = .next t) :
    (s.status.stateValid = false ∧ t = raiseError .stateNotValid s) ∨
    (s.status.stateValid = true ∧ messageInvalid s = true ∧ t = raiseError .invalidArgument s) ∨
    (s.status.stateValid = true ∧ messageInvalid s = false ∧ messageNotIdempotent s = false ∧
      ((∃ u, absorbMessage s = .error u ∧ t = raiseBusError u) ∨ (∃ u, absorbMessage s = .ok u ∧ t = completeCommand u))) := by
  unfold execAbsm at h
  cases hv : s.status.stateValid <;> cases hi : messageInvalid s <;> cases hm : messageNotIdempotent s <;>
    cases hr : absorbMessage s <;> simp_all

/-- Everything ABSS can do (R124). -/
theorem execAbss_next {s t : State} (h : execAbss s = .next t) :
    (s.status.stateValid = false ∧ t = raiseError .stateNotValid s) ∨
    (s.status.stateValid = true ∧ s.status.seedbufValid = false ∧ t = raiseError .seedbufNotValid s) ∨
    (s.status.stateValid = true ∧ s.status.seedbufValid = true ∧ t = completeCommand (absorbSeedBuffer s)) := by
  unfold execAbss at h
  cases hv : s.status.stateValid <;> cases hb : s.status.seedbufValid <;> simp_all

/-- Everything ABSX can do (R126). -/
theorem execAbsx_next {s t : State} (h : execAbsx s = .next t) :
    (s.status.stateValid = false ∧ t = raiseError .stateNotValid s) ∨
    (s.status.stateValid = true ∧ t = completeCommand (absorbSelf s)) := by
  unfold execAbsx at h
  cases hv : s.status.stateValid <;> simp_all

/-- Everything FINAL can do (R131). -/
theorem execFinal_next {s t : State} (h : execFinal s = .next t) :
    (s.status.stateValid = false ∧ t = raiseError .stateNotValid s) ∨
    (s.status.stateValid = true ∧ t = completeCommand (finaliseState s)) := by
  unfold execFinal at h
  cases hv : s.status.stateValid <;> simp_all

/-- Everything HASH can do (R134). -/
theorem execHash_next {s t : State} (h : execHash s = .next t) :
    (messageInvalid s = true ∧ t = raiseError .invalidArgument s) ∨
    (messageInvalid s = false ∧ messageNotIdempotent s = false ∧
      ((∃ u, absorbMessage (initialiseState (expandSeedBuffer s)) = .error u ∧ t = raiseBusError (dropSeedBuffer u)) ∨
        (∃ u, absorbMessage (initialiseState (expandSeedBuffer s)) = .ok u ∧
          t = completeCommand (finaliseState (absorbSelf (absorbSeedBuffer u)))))) := by
  unfold execHash at h
  cases hi : messageInvalid s <;> cases hm : messageNotIdempotent s <;>
    cases hr : absorbMessage (initialiseState (expandSeedBuffer s)) <;> simp_all

/-- Everything the engine's turn can do (R85 to R88). -/
theorem engineTurn_cases (s : State) :
    (s.status.busy = false ∧ engineTurn s = .next s) ∨
    (∃ i, s.status.busy = true ∧ decode s.cur = .ok i ∧ engineTurn s = exec i s) ∨
    (∃ e, s.status.busy = true ∧ decode s.cur = .error e ∧ engineTurn s = .next (raiseError e s)) := by
  unfold engineTurn fetchCommand
  cases hb : s.status.busy with
  | false => simp
  | true =>
    cases hd : decode s.cur with
    | ok i => exact .inr (.inl ⟨i, rfl, rfl, by simp⟩)
    | error e => exact .inr (.inr ⟨e, rfl, rfl, by simp⟩)

/-- Everything a host write to message memory can do when it has a step (R51, R53, R66, R169). -/
theorem hostMem_next {addr : Nat} {data : List Byte} {s t : State} (h : hostMem addr data s = .next t) :
    addr + data.length ≤ memSize s.params ∧ meetsWindow s.params addr data.length = false ∧
      (s.status.busy = true → inMessage s addr data.length = true) ∧
      t = { s with mem := Memory.writeAll s.mem addr data, raced := racedBy s addr data.length ++ s.raced } := by
  unfold hostMem at h
  split at h
  · cases h
  · split at h
    · cases h
    · split at h
      · cases h
      · refine ⟨by omega, by simp_all, by simp_all, by simpa using h.symm⟩

/-- A range is in the message range exactly when each of its addresses is (R66). -/
theorem inMessage_iff (s : State) (base n : Nat) :
    inMessage s base n = true ↔
      ∀ k, k < n → s.msgAddr.toNat ≤ base + k ∧ base + k < s.msgAddr.toNat + s.msgLen.toInt.toNat := by
  rw [inMessage, decide_eq_true_iff, msgCount, msgLength]
  constructor
  · rintro (h | h) k hk <;> omega
  · intro h
    by_cases hn : n = 0
    · exact .inl hn
    · have h0 := h 0 (by omega)
      have h1 := h (n - 1) (by omega)
      exact .inr ⟨by omega, by omega⟩

/-- The operations alone are a run of their host program: no host operation is an engine's turn (R82). -/
theorem programSchedule_programInputs (p : Config.Params) (ls : List HostLine) :
    programSchedule p ls (programInputs p ls) = true := by
  rw [programSchedule, beq_iff_eq, List.filter_eq_self]
  intro x hx
  obtain ⟨o, _, rfl⟩ := List.mem_map.mp hx
  cases o <;> rfl

/-- An engine's turn may stand anywhere in a run of a host program (R91). -/
theorem programSchedule_engine (p : Config.Params) (ls : List HostLine) (xs ys : List Input) :
    programSchedule p ls (xs ++ .engine :: ys) = programSchedule p ls (xs ++ ys) := by
  simp [programSchedule]

/-- Everything one step can do, by the input that is next. -/
theorem step_cases {s t : State} (h : step s = .next t) :
    (s.inputs = [] ∧ engineTurn s = .next t) ∨
    (∃ rest, s.inputs = .engine :: rest ∧ engineTurn { s with inputs := rest } = .next t) ∨
    (∃ addr bytes v rest q, s.inputs = .write addr bytes v :: rest ∧ accessWord s.params addr bytes = .ok q ∧
      t = writeWindow q v { s with inputs := rest }) ∨
    (∃ addr bytes rest q, s.inputs = .read addr bytes :: rest ∧ accessWord s.params addr bytes = .ok q ∧
      t = readWindow q { s with inputs := rest }) ∨
    (∃ rest, s.inputs = .poll :: rest ∧ s.status.busy = true ∧ engineTurn s = .next t) ∨
    (∃ rest, s.inputs = .poll :: rest ∧ s.status.busy = false ∧ t = readWindow 1 { s with inputs := rest }) ∨
    (∃ addr data rest, s.inputs = .mem addr data :: rest ∧ hostMem addr data { s with inputs := rest } = .next t) ∨
    (∃ rest, s.inputs = .reset :: rest ∧ t = resetBlock { s with inputs := rest }) := by
  unfold step at h
  split at h
  · exact .inl ⟨by assumption, h⟩
  · exact .inr (.inl ⟨_, by assumption, h⟩)
  · rename_i addr bytes v rest hin
    unfold hostWrite at h
    split at h
    · cases h
    · rename_i q hq
      exact .inr (.inr (.inl ⟨addr, bytes, v, rest, q, hin, hq, by simpa using h.symm⟩))
  · rename_i addr bytes rest hin
    unfold hostReadAt at h
    split at h
    · cases h
    · rename_i q hq
      exact .inr (.inr (.inr (.inl ⟨addr, bytes, rest, q, hin, hq, by simpa using h.symm⟩)))
  · rename_i rest hin
    cases hb : s.status.busy with
    | true => exact .inr (.inr (.inr (.inr (.inl ⟨rest, hin, rfl, by simpa [hb] using h⟩))))
    | false => exact .inr (.inr (.inr (.inr (.inr (.inl ⟨rest, hin, rfl, by simpa [hb] using h.symm⟩)))))
  · rename_i addr data rest hin
    exact .inr (.inr (.inr (.inr (.inr (.inr (.inl ⟨addr, data, rest, hin, h⟩))))))
  · rename_i rest hin
    exact .inr (.inr (.inr (.inr (.inr (.inr (.inr ⟨rest, hin, by simpa using h.symm⟩))))))

end Sys2Proof.Machine
end

