-- ==== Sys2Proof/Laws/PerInstr.lean ====
section
/-! SUPPORT. The statements made for each command as syntax, one lemma for each constructor. -/

namespace Sys2Proof.Laws

/-- A well-formed command's word decodes to that command (30_encoding.md R74, R80). -/
def EncodeDecodes.Statement (i : Instr) : Prop := i.wellFormed = true → (decode (encode i)).toOption = some i

theorem EncodeDecodes.nop : EncodeDecodes.Statement .nop := fun _ => by decide
theorem EncodeDecodes.init : EncodeDecodes.Statement .init := fun _ => by decide
theorem EncodeDecodes.seedx : EncodeDecodes.Statement .seedx := fun _ => by decide
theorem EncodeDecodes.mix (a : BitVec 3) : EncodeDecodes.Statement (.mix a) := by
  unfold EncodeDecodes.Statement; revert a; decide
theorem EncodeDecodes.absm : EncodeDecodes.Statement .absm := fun _ => by decide
theorem EncodeDecodes.abss : EncodeDecodes.Statement .abss := fun _ => by decide
theorem EncodeDecodes.absx : EncodeDecodes.Statement .absx := fun _ => by decide
theorem EncodeDecodes.final : EncodeDecodes.Statement .final := fun _ => by decide
theorem EncodeDecodes.hash : EncodeDecodes.Statement .hash := fun _ => by decide
theorem EncodeDecodes.norm : EncodeDecodes.Statement .norm := fun _ => by decide

end Sys2Proof.Laws
end

