-- ==== Sys2Proof/Tests/Slice0.lean ====
section
/-! SUPPORT. Tests: the words of 30_encoding.md written out bit by bit, the derived vectors of 95_test_vectors.md, and for every
statement with hypotheses a concrete state that meets them. -/

namespace Sys2Proof.Tests

open Sys2Proof Sys2Proof.Machine

/-- The illustrative parameters TP1, BS1 and MA1 (95_test_vectors.md section 0), with a window that is not in message memory. -/
def tp1 : Config.Params :=
  { initStore := ⟨tp1Words, by decide⟩, wordCtrInit := 0x0123456789ABCDEF, byteCtrInit := 0x5A
    badSeeds := ⟨bs1Members, 1, by decide⟩, addrW := 32, memAdmit := [⟨0, 0x10000⟩]
    sideEffects := [⟨0x8000, 0x10⟩], csrBase := 0x7000, windowShared := false }

/-- The same platform with the window in message memory. -/
def tp1Shared : Config.Params := { tp1 with windowShared := true }

/-- An idle block with STATUS = 0. -/
def t0 : State :=
  { params := tp1, st := tp1Words, sb := #v[0, 0, 0, 0], dg := #v[0, 0, 0, 0], seed := 0, msgLen := 0, msgAddr := 0
    status := Status.zero, cur := 0, pass := ⟨0, 0, 0, 0, 0, .done⟩, snap := tp1Words, mem := [], raced := []
    hostRead := 0, inputs := [], draws := 0 }

/-- The block after INIT, STATUS = 0x00000102. -/
def tInit : State := { t0 with status := { Status.zero with done := true, stateValid := true } }

/-- The block after INIT and SEEDX with SEED = 0 (V-SX-1), STATUS = 0x00000302. -/
def tSeeded : State :=
  { t0 with
    sb := #v[0xC5550690, 0x00000001, 0x00000000, 0xF00DACCA]
    status := { Status.zero with done := true, stateValid := true, seedbufValid := true } }

/-- The bytes 01 .. 09 at the odd address 0x2003 (P6). -/
def nineBytes : Memory :=
  [(0x2003, 1), (0x2004, 2), (0x2005, 3), (0x2006, 4), (0x2007, 5), (0x2008, 6), (0x2009, 7), (0x200A, 8), (0x200B, 9)]

/-- A state with the nine-byte message as its operand. -/
def withNine (s : State) : State := { s with mem := nineBytes, msgAddr := 0x2003, msgLen := 9 }

/-- A state whose message's third byte has no MemAdmit (P5). -/
def withUnreadable (s : State) : State := { s with msgAddr := 0xFFFE, msgLen := 4 }

/-- A state with inputs. -/
def withInputs (s : State) (xs : List Input) : State := { s with inputs := xs }

/-- A field of the next state, if there is one. -/
def nextOf {α : Type} (f : State → α) : Host.Outcome State Fault Refusal → Option α
  | .next t => some (f t)
  | .fault _ => none
  | .refused _ => none

/-! ## Well-formedness -/

theorem test_mix7_illFormed : Instr.wellFormed (.mix 7) = false := by decide
theorem test_mix6_wellFormed : Instr.wellFormed (.mix 6) = true := by decide

/-! ## Decoding: the patterns of R71 and R72, bit 31 first -/

theorem test_decode_nop : (decode 0b00000000_00000000_00000000_00000000).toOption = some .nop := by decide
theorem test_decode_init : (decode 0b00000000_00000000_00000000_00000001).toOption = some .init := by decide
theorem test_decode_seedx : (decode 0b00000000_00000000_00000000_00000010).toOption = some .seedx := by decide
theorem test_decode_mix5 : (decode 0b00000000_00000000_00000101_00000011).toOption = some (.mix 5) := by decide
theorem test_decode_absm : (decode 0b00000000_00000000_00000000_00000100).toOption = some .absm := by decide
theorem test_decode_abss : (decode 0b00000000_00000000_00000000_00000101).toOption = some .abss := by decide
theorem test_decode_absx : (decode 0b00000000_00000000_00000000_00000110).toOption = some .absx := by decide
theorem test_decode_final : (decode 0b00000000_00000000_00000000_00000111).toOption = some .final := by decide
theorem test_decode_hash : (decode 0b00000000_00000000_00000000_00001000).toOption = some .hash := by decide
theorem test_decode_norm : (decode 0b00000000_00000000_00000000_00001001).toOption = some .norm := by decide
theorem test_encode_mix6 : encode (.mix 6) = 0x00000603 := by decide
theorem test_decodeTableWord_mix6 : decodeTableWord 32 0x603 = some (.mix 6) := by decide
/-- V-ERR-2, V-ERR-3, V-ERR-5, V-ERR-16, V-ERR-17. -/
theorem test_decode_errors :
    ([0x0000000A, 0x00000703, 0x00000803, 0x00000100, 0xFFFFFF03].map (fun c => statusWord (presentCommand c t0).status)) =
      [0x00000016, 0x00000026, 0x00000016, 0x00000016, 0x00000016] := by decide

/-! ## Commands: derived vectors of 95_test_vectors.md -/

/-- V-NOP-1. -/
theorem test_nop_status :
    nextOf (fun t => statusWord t.status)
      (issue 0 { t0 with status := { Status.zero with ovr := true, done := true, stateValid := true } }) =
      some 0x00000102 := by decide
/-- V-INIT-2. -/
theorem test_init_clears_digest :
    nextOf (fun t => (t.dg[0], statusWord t.status))
      (issue 1 { t0 with dg := #v[0x888888888888888A, 0, 0, 0], status := { Status.zero with done := true, digestValid := true } }) =
      some (0, 0x00000102) := by decide
/-- V-SX-10. -/
theorem test_seedx_sb :
    nextOf (fun t => t.sb) (exec .seedx { t0 with seed := 0xDEADBEEF }) =
      some #v[0xE6A747A1, 0xDEADBEF0, 0x21524111, 0x2391E960] := by decide
/-- V-SX-9: the wrap of s + 1. -/
theorem test_seedx_wrap :
    nextOf (fun t => t.sb) (exec .seedx { t0 with seed := 0xFFFFFFFF }) = some #v[0xC5550691, 0, 1, 0] := by decide
/-- V-MIX-6. -/
theorem test_mix0_pair :
    nextOf (fun t => (t.st[0], t.st[1]))
      (exec (.mix 0) { tInit with st := #v[0x0123456789ABCDEF, 0xFEDCBA9876543210, 0, 0, 0, 0, 0, 0] }) =
      some (0x7E38B76200AD228A, 0x5DFA92A493CB9329) := by decide
/-- V-MIX-14. -/
theorem test_mix6_state :
    nextOf (fun t => t.st) (exec (.mix 6) tInit) =
      some #v[0x1111111111111111, 0x2222222222222222, 0x3333333333333333, 0x4444444444444444, 0x5555555555555555,
        0x6666666666666666, 0x7A00C6D38AA062EE, 0xF705F20E5BAFA301] := by decide
/-- V-ABS-4f: a word step and a byte step. -/
theorem test_absm_nine :
    nextOf (fun t => t.st) (exec .absm (withNine tInit)) =
      some #v[0x16B03C2A6028C724, 0xE64EFDC82F98624B, 0x11CB495C810C589F, 0xBA1CF53BBCF93D1A, 0x3EEDE5604355D4D5,
        0x38DF95AAAF51A1FB, 0xDF73D22B846619C2, 0xE236895896A4B40A] := by decide +kernel
/-- V-ERR-9: a range past 2^32. -/
theorem test_absm_range :
    nextOf (fun t => statusWord t.status) (exec .absm { tInit with msgAddr := 0xFFFFFFF0, msgLen := 0x20 }) =
      some 0x00000156 := by decide
/-- V-ABS-5. -/
theorem test_abss_state :
    nextOf (fun t => t.st) (exec .abss tSeeded) =
      some #v[0xBF3E3E72909E64C9, 0xB4CEAD7BF2410BDF, 0x7F1787B4DCBE142C, 0x3C4E0D80574604CE, 0x0127C9342B38293F,
        0x6BDED6D48D63BA07, 0xB35942C2DE2EAFC8, 0xACFC9B0C8EB3860F] := by decide +kernel
/-- V-ERR-6. -/
theorem test_abss_seedbufNotValid :
    nextOf (fun t => statusWord t.status) (exec .abss tInit) = some 0x00000146 := by decide
/-- V-ABS-6. -/
theorem test_absx_state :
    nextOf (fun t => t.st) (exec .absx tInit) =
      some #v[0xC2CC35A6EE6625F0, 0x10B878A294301AA1, 0x4AFA62EAB5CA499C, 0x3F884E9266474C4F, 0xF70CC44FBDCE5E3C,
        0x9611D9805B35C8FE, 0xCC8DD5C4CEE066AA, 0x24CC7FFACC1A6937] := by decide +kernel
/-- V-FIN-5. -/
theorem test_final_digest :
    nextOf (fun t => (t.dg, statusWord t.status)) (exec .final tInit) =
      some (#v[0x888888888888888A, 0, 0, 0], 0x00000402) := by decide
/-- V-ERR-10. -/
theorem test_final_twice :
    nextOf (fun t => (t.dg[0], statusWord t.status))
      (issueAll [7, 7] { tInit with inputs := [] }) = some (0x888888888888888A, 0x00000436) := by decide
/-- V-HASH-14. -/
theorem test_hash_nine :
    nextOf (fun t => (t.dg[0], statusWord t.status)) (exec .hash (withNine { t0 with seed := 12345 })) =
      some (0xCC94E40A0826D17D, 0x00000402) := by decide +kernel
/-- V-ERR-15. -/
theorem test_hash_busError :
    nextOf (fun t => (t.dg[0], statusWord t.status)) (exec .hash (withUnreadable t0)) =
      some (0, 0x00000066) := by decide +kernel
/-- V-NORM-6. -/
theorem test_norm_wraps :
    nextOf (fun t => t.seed) (exec .norm { t0 with seed := 0xFFFFFFFF }) = some 1 := by decide
/-- V-NORM-2. -/
theorem test_norm_run : nextOf (fun t => t.seed) (exec .norm { t0 with seed := 5 }) = some 8 := by decide
/-- V-OVR-1: a host write that finds the engine busy, and its command's completion. -/
theorem test_ovr :
    nextOf (fun t => (t.seed, statusWord t.status)) (engineTurn (writeReg .seed 5 (presentCommand 8 t0))) =
      some (0, 0x0000040A) := by decide +kernel
/-- V-HASH-14 by the functions that the statements use. -/
theorem test_digestRef : digestRef tp1 12345 [1, 2, 3, 4, 5, 6, 7, 8, 9] = 0xCC94E40A0826D17D := by decide +kernel
/-- V-ROT-4 and V-ROT-7. -/
theorem test_rotations : rotr64 0x0123456789ABCDEF 23 = 0x579BDE02468ACF13 ∧ rotr8 0xA5 7 = 0x4B := by decide

/-! ## The host's side -/

theorem test_assemble_wr :
    assemble "wr  SEED, 0x3039 ; the seed".toList = some (.op (.wr .seed 12345)) := by decide
theorem test_assemble_mem :
    assemble "mem 0x1000, 0x61 0x62 0x63".toList = some (.op (.mem 0x1000 [0x61, 0x62, 0x63])) := by decide
/-- The first three operations of P7, where the engine completes after the SEED write and where it completes before it. -/
theorem test_programSchedule_P7 :
    ([[.write 0x700C 4 0, .write 0x7000 4 8, .write 0x7008 4 5, .engine],
      [.write 0x700C 4 0, .write 0x7000 4 8, .engine, .write 0x7008 4 5]] : List (List Input)).all
      (programSchedule tp1 [.op (.wr .msgLen 0), .op (.wr .cmd 8), .op (.wr .seed 5)]) = true := by decide
theorem test_hexWord : hexWord 0x00000603 = "00000603".toList := by decide

/-! ## Witnesses: states that meet the hypotheses of the statements -/

theorem witness_DecodeReadsFields_reserved : (decode 0x0000000A).toOption = none ∧ decode 0x0000000A = .error .illegalCmd :=
  ⟨rfl, rfl⟩
theorem witness_DecodeReadsFields_pivot : decode 0x00000703 = .error .badOperand := rfl
theorem witness_DecodeEncodeAgree_wellFormed : Instr.wellFormed (.mix 6) = true ∧ Instr.wellFormed .norm = true := by decide
theorem witness_DecodeEncodeAgree_word : decode 0x00000603 = .ok (.mix 6) ∧ decode 0x00000009 = .ok .norm := ⟨rfl, rfl⟩
theorem witness_ReservedEncodingsIllegal :
    10 ≤ (0x0000000A : Word32).toNat % 256 ∧ 10 ≤ (0x000000FF : Word32).toNat % 256 ∧
    ((0x00000803 : Word32).toNat % 256 = 3 ∧ (0x00000803 : Word32).toNat / 2048 ≠ 0) ∧
    ((0x00000109 : Word32).toNat % 256 < 10 ∧ (0x00000109 : Word32).toNat % 256 ≠ 3 ∧
      (0x00000109 : Word32).toNat / 256 ≠ 0) := by decide

/-- A busy engine whose command is NORM, with some inputs. -/
def tBusy (xs : List Input) : State := withInputs (acceptCommand 0x00000009 t0) xs

/-- A busy engine whose command is HASH of the nine-byte message. -/
def tBusyHash (xs : List Input) : State := withInputs (acceptCommand 0x00000008 (withNine t0)) xs

theorem witness_StepRunsDecodedCommand_noInput :
    (tBusy []).inputs = [] ∧ (tBusy []).status.busy = true ∧ decode (tBusy []).cur = .ok .norm := ⟨rfl, rfl, rfl⟩
theorem witness_StepRunsDecodedCommand_engine :
    (tBusy [.engine]).inputs = .engine :: [] ∧ (tBusy [.engine]).status.busy = true ∧
      decode (tBusy [.engine]).cur = .ok .norm := ⟨rfl, rfl, rfl⟩
theorem witness_StepRunsDecodedCommand_poll :
    (tBusy [.poll]).inputs = .poll :: [] ∧ (tBusy [.poll]).status.busy = true ∧ decode (tBusy [.poll]).cur = .ok .norm :=
  ⟨rfl, rfl, rfl⟩
theorem witness_StepRunsDecodedCommand_fetch : decodeTableWord 32 0x00000603 = some (.mix 6) := rfl
theorem witness_CommandAcceptance_decodes :
    (withInputs t0 [.write 0x7000 4 9]).status.busy = false ∧
      (withInputs t0 [.write 0x7000 4 9]).inputs = .write (withInputs t0 [.write 0x7000 4 9]).params.csrBase 4 9 :: [] ∧
      decode 9 = .ok .norm := ⟨rfl, rfl, rfl⟩
theorem witness_CommandAcceptance_raises :
    (withInputs t0 [.write 0x7000 4 10]).status.busy = false ∧
      (withInputs t0 [.write 0x7000 4 10]).inputs = .write (withInputs t0 [.write 0x7000 4 10]).params.csrBase 4 10 :: [] ∧
      decode 10 = .error .illegalCmd := ⟨rfl, rfl, rfl⟩
theorem witness_AcceptedCommandsComplete :
    (tBusyHash []).status.busy = true ∧ ArgsLegal (tBusyHash []) ∧ 0 < (tBusyHash []).msgLen.toInt.toNat ∧
      MessagePlain (tBusyHash []) := by decide
/-- A busy NOP with a message where reads have side effects. -/
theorem witness_AcceptedCommandsComplete_nop :
    decode ({ tBusy [] with cur := 0, msgAddr := 0x8000, msgLen := 1 } : State).cur = .ok .nop ∧
      (tBusy []).status.busy = true ∧ ¬ MessagePlain { tBusy [] with cur := 0, msgAddr := 0x8000, msgLen := 1 } :=
  ⟨rfl, rfl, by decide⟩
theorem witness_EngineLifeCycle_accepts :
    ∃ t, step (withInputs t0 [.write 0x7000 4 9]) = .next t ∧ t0.status.busy = false ∧ t.status.busy = true :=
  ⟨_, rfl, rfl, rfl⟩
theorem witness_EngineLifeCycle_completes :
    ∃ t, step (tBusy []) = .next t ∧ (tBusy []).status.busy = true ∧ t.status.busy = false := ⟨_, rfl, rfl, rfl⟩
theorem witness_EngineLifeCycle_reset :
    ∃ t, step (tBusy [.reset]) = .next t ∧ (tBusy [.reset]).status.busy = true ∧ t.status.busy = false := ⟨_, rfl, rfl, rfl⟩
theorem witness_NopCompletes_reserved :
    (0x00000100 : Word32).toNat % 256 = 0 ∧ (0x00000100 : Word32).toNat / 256 ≠ 0 := by decide
theorem witness_NopCompletes_example :
    statusWord { Status.zero with ovr := true, done := true, stateValid := true } = 0x0000010A := by decide

theorem witness_BusyWritesDropped :
    (∀ r ∈ [Reg.cmd, .seed, .msgLen, .msgAddrLo, .msgAddrHi],
      (tBusy [.write (0x7000 + regOffset r) 4 5]).status.busy = true ∧
      (tBusy [.write (0x7000 + regOffset r) 4 5]).inputs =
        .write ((tBusy []).params.csrBase + regOffset r) 4 5 :: []) := by decide
theorem witness_BusyWritesDropped_sets :
    ∃ t, step (tBusy [.write 0x7008 4 5]) = .next t ∧ (tBusy []).status.ovr = false ∧ t.status.ovr = true :=
  ⟨_, rfl, rfl, rfl⟩
theorem witness_CmdRegisterAccess_idle :
    t0.status.busy = false ∧ (withInputs t0 [.write 0x7000 4 9]).inputs = .write t0.params.csrBase 4 9 :: [] := by decide
theorem witness_CmdRegisterAccess_busy :
    (tBusy [.write 0x7000 4 9]).status.busy = true ∧
      (tBusy [.write 0x7000 4 9]).inputs = .write (tBusy []).params.csrBase 4 9 :: [] := by decide
theorem witness_CmdRegisterAccess_read :
    (withInputs t0 [.read 0x7000 4]).inputs = .read t0.params.csrBase 4 :: [] := by decide
/-- The reserved offsets at the ends of their ranges. -/
theorem witness_ReservedOffsetsInert :
    ∀ off ∈ [0x038, 0x03C, 0x090, 0xFFC],
      (off = 0x038 ∨ off = 0x03C ∨ (0x090 ≤ off ∧ off ≤ 0xFFC ∧ off % 4 = 0)) ∧
      (withInputs t0 [.write (0x7000 + off) 4 5]).inputs = .write (t0.params.csrBase + off) 4 5 :: [] ∧
      (withInputs t0 [.read (0x7000 + off) 4]).inputs = .read (t0.params.csrBase + off) 4 :: [] := by decide
theorem witness_RegisterMapAgrees :
    (Reg.sb 3) ∉ [Reg.cmd, .seed, .msgLen, .msgAddrLo, .msgAddrHi] ∧ regAtWord 35 = some (.sb 3) ∧
      (withInputs t0 [.write 0x708C 4 5]).inputs = .write (t0.params.csrBase + regOffset (.sb 3)) 4 5 :: [] := by decide
theorem witness_OperandRegistersReadBack :
    t0.status.busy = false ∧
      (withInputs t0 [.write 0x7008 4 5]).inputs = .write (t0.params.csrBase + 0x008) 4 5 :: [] ∧
      (withInputs t0 [.write 0x700C 4 5]).inputs = .write (t0.params.csrBase + 0x00C) 4 5 :: [] ∧
      (withInputs t0 [.read 0x7008 4]).inputs = .read (t0.params.csrBase + 0x008) 4 :: [] ∧
      (withInputs t0 [.read 0x700C 4]).inputs = .read (t0.params.csrBase + 0x00C) 4 :: [] := by decide

/-- The invariant holds of the idle test state and of a busy one. -/
theorem t0_inv : t0.Inv := by constructor <;> decide
theorem tBusy_inv : (tBusy []).Inv := by constructor <;> decide

theorem witness_MsgAddrHardwiredBits :
    t0.status.busy = false ∧
      (withInputs t0 [.write 0x7010 4 5]).inputs = .write (t0.params.csrBase + 0x010) 4 5 :: [] ∧
      (withInputs t0 [.write 0x7014 4 5]).inputs = .write (t0.params.csrBase + 0x014) 4 5 :: [] ∧
      (withInputs t0 [.read 0x7010 4]).inputs = .read (t0.params.csrBase + 0x010) 4 :: [] := by decide
theorem witness_MsgAddrHardwiredBits_high :
    (withInputs t0 [.read 0x7014 4]).Inv ∧ (withInputs t0 [.read 0x7014 4]).params.addrW ≤ 32 ∧
      (withInputs t0 [.read 0x7014 4]).inputs = .read ((withInputs t0 [.read 0x7014 4]).params.csrBase + 0x014) 4 :: [] :=
  ⟨by constructor <;> decide, by decide, rfl⟩
/-- The windows' first and last registers. -/
theorem witness_StateWindowReads :
    (withInputs t0 [.read 0x7040 4]).inputs = .read (t0.params.csrBase + (0x040 + 8 * (0 : Fin 8).val)) 4 :: [] ∧
      (withInputs t0 [.read 0x707C 4]).inputs = .read (t0.params.csrBase + (0x044 + 8 * (7 : Fin 8).val)) 4 :: [] := by decide
theorem witness_SeedWindowReads :
    (withInputs t0 [.read 0x7080 4]).inputs = .read (t0.params.csrBase + (0x080 + 4 * (0 : Fin 4).val)) 4 :: [] ∧
      (withInputs t0 [.read 0x708C 4]).inputs = .read (t0.params.csrBase + (0x080 + 4 * (3 : Fin 4).val)) 4 :: [] := by decide
theorem witness_DigestWindowReads :
    (withInputs t0 [.read 0x7018 4]).inputs = .read (t0.params.csrBase + (0x018 + 8 * (0 : Fin 4).val)) 4 :: [] ∧
      (withInputs t0 [.read 0x7034 4]).inputs = .read (t0.params.csrBase + (0x01C + 8 * (3 : Fin 4).val)) 4 :: [] := by decide
theorem witness_DigestWindowReads_zero :
    (withInputs t0 [.read 0x7020 4]).Inv ∧ t0.status.busy = false ∧ (1 : Fin 4) ≠ 0 ∧
      (withInputs t0 [.read 0x7020 4]).inputs = .read (t0.params.csrBase + (0x018 + 8 * (1 : Fin 4).val)) 4 :: [] :=
  ⟨by constructor <;> decide, rfl, by decide, rfl⟩
theorem witness_StatusWordLayout :
    (tBusy [.read 0x7004 4]).inputs = .read ((tBusy []).params.csrBase + 0x004) 4 :: [] := by decide
/-- A byte access, an unaligned word access, and one at the window's last byte. -/
theorem witness_MalformedAccessStuck :
    ((0x004 < 4096 ∧ (1 ≠ 4 ∨ 0x004 % 4 ≠ 0)) ∧ (0x006 < 4096 ∧ (4 ≠ 4 ∨ 0x006 % 4 ≠ 0)) ∧
      (0xFFF < 4096 ∧ (4 ≠ 4 ∨ 0xFFF % 4 ≠ 0))) ∧
    (withInputs t0 [.write 0x7006 4 5]).inputs = .write (t0.params.csrBase + 0x006) 4 5 :: [] ∧
    (withInputs t0 [.read 0x7FFF 4]).inputs = .read (t0.params.csrBase + 0xFFF) 4 :: [] := by decide
theorem witness_ResetInputSetsState : (tBusyHash [.reset]).inputs = .reset :: [] := by decide

theorem witness_InitCompletes :
    t0.params.initStore.words = tp1Words ∧ t0.status = Status.zero ∧
      (0xFFFFFF01 : Word32).toNat % 256 = 1 ∧ (0xFFFFFF01 : Word32).toNat / 256 ≠ 0 := by decide
theorem witness_SeedxCompletes :
    ({ t0 with seed := 12345 } : State).seed = 12345 ∧
      (0x00000102 : Word32).toNat % 256 = 2 ∧ (0x00000102 : Word32).toNat / 256 ≠ 0 := by decide
theorem witness_ExpansionLaws_injective : expandSeed 5 = expandSeed 5 := rfl
theorem witness_MixPrimitive :
    (6 : Fin 8).val = (6 : Fin 7).val ∧ (7 : Fin 8).val = (6 : Fin 7).val + 1 ∧ (0 : Fin 8) ≠ 6 ∧ (0 : Fin 8) ≠ 7 := by decide
theorem witness_MixCompletes :
    (6 : Fin 8).val = (6 : BitVec 3).toNat ∧ (7 : Fin 8).val = (6 : BitVec 3).toNat + 1 ∧ tInit.status.stateValid = true := by
  decide
theorem witness_MixCompletes_notValid : (6 : BitVec 3) ≠ 7 ∧ t0.status.stateValid = false := by decide
theorem witness_MixCompletes_example :
    ({ tInit with st := #v[1, 0, 0, 0, 0, 0, 0, 0] } : State).status.stateValid = true ∧
      ({ tInit with st := #v[1, 0, 0, 0, 0, 0, 0, 0] } : State).st[0] = 1 ∧
      ({ tInit with st := #v[1, 0, 0, 0, 0, 0, 0, 0] } : State).st[1] = 0 := by decide
theorem witness_MixOfSeparatePairsCommutes :
    ((7 : Fin 8).val ≠ (0 : Fin 7).val ∧ (7 : Fin 8).val ≠ (0 : Fin 7).val + 1) ∧ (0 : Fin 7).val + 2 ≤ (2 : Fin 7).val := by
  decide
theorem witness_MixFixesZero :
    (6 : Fin 8).val = (6 : Fin 7).val ∧ (7 : Fin 8).val = (6 : Fin 7).val + 1 ∧
      (#v[1, 2, 3, 4, 5, 6, 0, 0] : Words)[(6 : Fin 8)] = 0 ∧ (#v[1, 2, 3, 4, 5, 6, 0, 0] : Words)[(7 : Fin 8)] = 0 := by
  decide
theorem witness_AbsmCompletes :
    (withNine tInit).status.stateValid = true ∧ ArgsLegal (withNine tInit) ∧ MessageReadable (withNine tInit) ∧
      MessagePlain (withNine tInit) ∧ MessageQuiet (withNine tInit) := by decide
/-- The message that ends at the top of message memory. -/
theorem witness_AbsmCompletes_top :
    ArgsLegal { tInit with msgAddr := 0xFFFFFFFF, msgLen := 1 } ∧ ¬ ArgsLegal { tInit with msgAddr := 0xFFFFFFFF, msgLen := 2 } := by
  decide
theorem witness_AbssCompletes : tSeeded.status.stateValid = true ∧ tSeeded.status.seedbufValid = true := by decide
theorem witness_AbsxCompletes : tInit.status.stateValid = true := by decide
theorem witness_SnapshotEqualsLiveRead : 0 < 8 ∧ 7 < 8 := by decide
theorem witness_FinalizerFunction :
    (#v[9, 9, 1, 2, 9, 9, 3, 4] : Words)[2] = (#v[0, 0, 1, 2, 0, 0, 3, 4] : Words)[2] ∧
      (#v[9, 9, 1, 2, 9, 9, 3, 4] : Words)[3] = (#v[0, 0, 1, 2, 0, 0, 3, 4] : Words)[3] ∧
      (#v[9, 9, 1, 2, 9, 9, 3, 4] : Words)[6] = (#v[0, 0, 1, 2, 0, 0, 3, 4] : Words)[6] ∧
      (#v[9, 9, 1, 2, 9, 9, 3, 4] : Words)[7] = (#v[0, 0, 1, 2, 0, 0, 3, 4] : Words)[7] := by decide
theorem witness_FinalCompletes :
    tInit.status.stateValid = true ∧ t0.status.stateValid = false ∧ t0.params.initStore.words = tp1Words ∧
      t0.status = Status.zero ∧ (0x00000107 : Word32).toNat % 256 = 7 ∧ (0x00000107 : Word32).toNat / 256 ≠ 0 := by decide
theorem witness_HashCompletes :
    ArgsLegal (withNine t0) ∧ MessageReadable (withNine t0) ∧ MessagePlain (withNine t0) := by decide
theorem witness_HashEqualsCommandSequence_succeeds :
    ∃ t, issue 0x00000008 (withNine t0) = .next t ∧ t.status.err = false := ⟨_, rfl, rfl⟩
theorem witness_HashEqualsCommandSequence_fails :
    ∃ t, issue 0x00000008 { t0 with msgLen := 3 } = .next t ∧ t.status.err = true := ⟨_, rfl, rfl⟩
/-- The same nine bytes at another address. -/
def tMoved : State :=
  { withNine t0 with
    st := #v[0, 0, 0, 0, 0, 0, 0, 0], msgAddr := 0x3000
    mem := [(0x3000, 1), (0x3001, 2), (0x3002, 3), (0x3003, 4), (0x3004, 5), (0x3005, 6), (0x3006, 7), (0x3007, 8), (0x3008, 9)] }
theorem witness_HashDeterminism :
    (withNine t0).params = tMoved.params ∧ (withNine t0).seed = tMoved.seed ∧ (withNine t0).msgLen = tMoved.msgLen ∧
      ArgsLegal (withNine t0) ∧ MessageReadable (withNine t0) ∧ MessagePlain (withNine t0) ∧ MessageQuiet (withNine t0) ∧
      ArgsLegal tMoved ∧ MessageReadable tMoved ∧ MessagePlain tMoved ∧ MessageQuiet tMoved ∧
      messageWritten (withNine t0) = messageWritten tMoved ∧ withNine t0 ≠ tMoved := by decide
theorem witness_HashLengthZero : ({ t0 with msgAddr := 0xFFFFFFFF } : State).msgLen = 0 := rfl
theorem witness_NormCompletes :
    t0.params.badSeeds.members = bs1Members ∧ ({ t0 with seed := 0xFFFFFFFF } : State).seed = 0xFFFFFFFF ∧
      (0x00000109 : Word32).toNat % 256 = 9 ∧ (0x00000109 : Word32).toNat / 256 ≠ 0 := by decide
theorem witness_NormalizationLaws :
    (4 : Word32) ∉ tp1.badSeeds.members ∧ (5 : Word32) + BitVec.ofNat 32 4 ∉ tp1.badSeeds.members := by decide
theorem witness_ByteViewsConsistent : (63 < 64 ∧ 0 < 64) ∧ (63 / 8 ≠ (0 : Fin 8).val) ∧ (7 < 8) ∧ (3 < 4) := by decide
theorem witness_FirstErrorReported :
    MessagePlain (withUnreadable tInit) ∧ ArgsLegal (withUnreadable tInit) ∧ ¬ MessageReadable (withUnreadable tInit) := by
  decide
/-- A null address with a length: arguments that are not legal, with a message that meets a region with side effects. -/
theorem witness_FirstErrorReported_sideEffects :
    ¬ ArgsLegal { tInit with msgAddr := 0, msgLen := 0x8001 } ∧ ¬ MessagePlain { tInit with msgAddr := 0, msgLen := 0x8001 } :=
  ⟨by decide, fun h => absurd (h 0x8000 (by decide) ⟨0x8000, 0x10⟩ (by decide)) (by decide)⟩
theorem witness_PreciseErrors :
    ∃ t, exec .absm { tInit with msgLen := 5 } = .next t ∧ t.status.err = true ∧ t.status.errcode ≠ 6 :=
  ⟨_, rfl, rfl, by decide⟩
theorem witness_PreciseErrors_decode : decode 0x00000803 = .error .illegalCmd := rfl
theorem witness_BusErrorEffect_absm :
    ∃ t, exec .absm (withUnreadable tInit) = .next t ∧ t.status.errcode = 6 := ⟨_, rfl, rfl⟩
theorem witness_BusErrorEffect_hash :
    ∃ t, exec .hash (withUnreadable t0) = .next t ∧ t.status.errcode = 6 := ⟨_, rfl, rfl⟩
/-- A message whose last byte is the first of a region with side effects. -/
theorem witness_SideEffectLaunchRefused :
    tInit.status.stateValid = true ∧ ArgsLegal { tInit with msgAddr := 0x7FFE, msgLen := 3 } ∧
      ¬ MessagePlain { tInit with msgAddr := 0x7FFE, msgLen := 3 } ∧
      MessagePlain { tInit with msgAddr := 0x7FFE, msgLen := 2 } := by decide
theorem witness_CommandFrame : ∃ t, exec .norm { t0 with seed := 5 } = .next t ∧ t.seed ≠ 5 := ⟨_, rfl, by decide⟩
theorem witness_CommandFrame_nop : ∃ t, exec .nop t0 = .next t ∧ Instr.nop ≠ .norm := ⟨_, rfl, by decide⟩
theorem witness_ValidBitDiscipline_sets :
    ∃ t, exec .init t0 = .next t ∧ t.status.stateValid = true ∧ t0.status.stateValid = false := ⟨_, rfl, rfl, rfl⟩
theorem witness_ValidBitDiscipline_clears :
    ∃ t, exec .final tSeeded = .next t ∧ tSeeded.status.stateValid = true ∧ t.status.stateValid = false ∧
      tSeeded.status.seedbufValid = true ∧ t.status.seedbufValid = false ∧ t.status.digestValid = true :=
  ⟨_, rfl, rfl, rfl, rfl, rfl, rfl⟩
/-- Two bytes at the top of message memory. -/
theorem witness_OnlyHostWritesMemory :
    Memory.wf t0.mem = true ∧
      (withInputs t0 [.mem 0xFFFFFFFE [1, 2]]).inputs = .mem 0xFFFFFFFE [1, 2] :: [] ∧
      0xFFFFFFFE + [1, 2].length ≤ 2 ^ t0.params.addrW ∧ meetsWindow t0.params 0xFFFFFFFE 2 = false ∧
      t0.status.busy = false := by decide
/-- The two bytes below a window that lies in message memory. -/
theorem witness_OnlyHostWritesMemory_shared :
    tp1Shared.windowShared = true ∧ meetsWindow tp1Shared 0x6FFE [1, 2].length = false ∧
      0x6FFE + [1, 2].length = tp1Shared.csrBase := by decide
/-- The last byte of the message of a busy HASH. -/
theorem witness_OnlyHostWritesMemory_busy :
    (tBusyHash [.mem 0x200B [7]]).status.busy = true ∧ (tBusyHash []).msgAddr.toNat ≤ 0x200B ∧
      0x200B + 1 = (tBusyHash []).msgAddr.toNat + (tBusyHash []).msgLen.toInt.toNat := by decide
theorem witness_HostMemoryWriteStuck_range :
    (withInputs t0 [.mem 0xFFFFFFFF [1, 2]]).inputs = .mem 0xFFFFFFFF [1, 2] :: [] ∧
      2 ^ t0.params.addrW < 0xFFFFFFFF + [1, 2].length := by decide
theorem witness_HostMemoryWriteStuck_window :
    (0x6FFF + [1, 2].length ≤ 2 ^ tp1Shared.addrW ∧ tp1Shared.windowShared = true) ∧
      (∃ n, n < [1, 2].length ∧ tp1Shared.csrBase ≤ 0x6FFF + n ∧ 0x6FFF + n < tp1Shared.csrBase + 4096) := by decide
/-- The byte just past the message of a busy HASH. -/
theorem witness_HostMemoryWriteStuck_busy :
    ((tBusyHash [.mem 0x200B [7, 8]]).status.busy = true ∧ meetsWindow tp1 0x200B 2 = false) ∧
      0 < (tBusyHash []).msgLen.toInt.toNat ∧
      (∃ n, n < [7, 8].length ∧
        (tBusyHash []).msgAddr.toNat + (tBusyHash []).msgLen.toInt.toNat ≤ 0x200B + n) := by decide
theorem witness_OnlyHostWritesMemory_others : ∃ t, step (tBusy []) = .next t ∧ (tBusy []).inputs = [] := ⟨_, rfl, rfl⟩
theorem witness_RacingReadsAreDraws_write :
    ∃ t, step (tBusyHash [.mem 0x2003 [7]]) = .next t ∧ (tBusyHash [.mem 0x2003 [7]]).status.busy = true ∧
      memAdmits t.params (t.msgAddr.toNat + 0) = true ∧ 0x2003 ≤ t.msgAddr.toNat + 0 ∧ t.msgAddr.toNat + 0 < 0x2003 + 1 :=
  ⟨_, rfl, rfl, by decide, by decide, by decide⟩
/-- A message whose first byte is the last of the register window. -/
theorem witness_RacingReadsAreDraws_window :
    tp1Shared.windowShared = true ∧
      0 < ({ t0 with params := tp1Shared, msgAddr := 0x7FFF, msgLen := 2 } : State).msgLen.toInt.toNat ∧
      tp1Shared.csrBase ≤ 0x7FFF + 0 ∧ 0x7FFF + 0 < tp1Shared.csrBase + 4096 ∧ memAdmits tp1Shared (0x7FFF + 1) = true := by
  decide
theorem witness_EngineReadsOnlyTheMessage :
    (∀ n, n < (withNine tInit).msgLen.toInt.toNat →
      Memory.read ((0x1000, 7) :: nineBytes) ((withNine tInit).msgAddr.toNat + n) =
        Memory.read (withNine tInit).mem ((withNine tInit).msgAddr.toNat + n)) ∧
      (nextOf (fun _ => ()) (exec .absm (withNine tInit))).isSome = true := by decide +kernel
theorem witness_StepKeepsInv : ∃ t, (tBusy []).Inv ∧ step (tBusy []) = .next t := ⟨_, tBusy_inv, rfl⟩
theorem witness_WrittenFormsAgree :
    Instr.wellFormed (.mix 6) = true ∧ Instr.absx ∈ [Instr.nop, .absx] ∧ isSeparator 'x' = false ∧ 'x' ≠ ';' := by decide
theorem witness_RotationsAndByteStep : (63 < 64 ∧ 7 < 8) ∧ (6 : Fin 7).val = 13 % 7 := by decide

end Sys2Proof.Tests
end

section
/-! SUPPORT. The register window as a map: which word of the window a host access names (10_state.md R36, R53), and what the step
of such an access does. -/

namespace Sys2Proof.Machine

/-! ## The register map (R36) -/

theorem regOffset_aligned (r : Reg) : regOffset r % 4 = 0 := by
  cases r <;> simp only [regOffset] <;> omega

theorem regOffset_lt_windowSize (r : Reg) : regOffset r < windowSize := by
  cases r <;> simp only [regOffset, windowSize] <;> omega

/-- The window holds every register at its offset. -/
@[simp] theorem regAtWord_regOffset (r : Reg) : regAtWord (regOffset r / 4) = some r := by
  cases r with
  | digestLo k => revert k; decide
  | digestHi k => revert k; decide
  | stLo k => revert k; decide
  | stHi k => revert k; decide
  | sb k => revert k; decide
  | _ => rfl

/-- Past `SB3` the window holds no register (R41). -/
theorem regAtWord_of_ge {q : Nat} (h : 36 ≤ q) : regAtWord q = none := by
  have hidx : index? 4 (q - 32) = none := by rw [index?, dif_neg (by omega)]
  unfold regAtWord
  repeat rw [if_neg (by omega)]
  rw [hidx, Option.map_none]

/-- The window holds at a word no register but the one with that offset. -/
theorem regOffset_of_regAtWord {q : Nat} {r : Reg} (h : regAtWord q = some r) : regOffset r = 4 * q := by
  have below : ∀ q < 36, ∀ r ∈ regAtWord q, regOffset r = 4 * q := by decide
  by_cases hq : q < 36
  · exact below q hq r h
  · rw [regAtWord_of_ge (by omega)] at h
    cases h

/-- The reserved words of the window (R41). -/
theorem regAtWord_eq_none_iff (q : Nat) : regAtWord q = none ↔ q = 14 ∨ q = 15 ∨ 36 ≤ q := by
  have below : ∀ q < 36, regAtWord q = none ↔ q = 14 ∨ q = 15 := by decide
  by_cases hq : q < 36
  · rw [below q hq]; omega
  · simp only [regAtWord_of_ge (Nat.le_of_not_lt hq), true_iff]; omega

/-- The registers that take host writes, listed (R36). -/
theorem regWritable_iff (r : Reg) :
    regWritable r = true ↔ r ∈ [Reg.cmd, .seed, .msgLen, .msgAddrLo, .msgAddrHi] := by
  cases r <;> simp [regWritable]

/-! ## Words of the window -/

theorem writeWindow_reserved {q : Nat} (h : regAtWord q = none) (v : Word32) (s : State) : writeWindow q v s = s := by
  simp only [writeWindow, h]

theorem writeWindow_of_reg {q : Nat} {r : Reg} (h : regAtWord q = some r) (v : Word32) (s : State) :
    writeWindow q v s = writeReg r v s := by
  simp only [writeWindow, h]

theorem readWindow_reserved {q : Nat} (h : regAtWord q = none) (s : State) :
    readWindow q s = { s with hostRead := 0 } := by
  simp only [readWindow, h]

theorem readWindow_of_reg {q : Nat} {r : Reg} (h : regAtWord q = some r) (s : State) :
    readWindow q s = { s with hostRead := regValue s r, draws := s.draws + 1 } := by
  simp only [readWindow, h]

@[simp] theorem readWindow_status (q : Nat) (s : State) : (readWindow q s).status = s.status := by
  cases h : regAtWord q with
  | none => rw [readWindow_reserved h]
  | some r => rw [readWindow_of_reg h]

/-- A host write that finds the engine busy is dropped (R32). -/
theorem writeReg_busy {r : Reg} (v : Word32) {s : State} (hw : regWritable r = true) (hb : s.status.busy = true) :
    writeReg r v s = dropWrite s := by
  simp [writeReg, hw, hb]

/-- A host write that finds the engine idle is made (R26 to R28, R40). -/
theorem writeReg_idle (r : Reg) (v : Word32) {s : State} (hb : s.status.busy = false) :
    writeReg r v s = writeIdle r v s := by
  simp [writeReg, hb]

/-! ## Host accesses to the window (R53) -/

/-- An aligned 32-bit access inside the window names the word at its offset. -/
theorem accessWord_window (p : Config.Params) {off : Nat} (hlt : off < windowSize) (hal : off % 4 = 0) :
    accessWord p (p.csrBase + off) 4 = .ok (off / 4) := by
  have hin : inRegion (windowRegion p) (p.csrBase + off) = true := by simp [inRegion, windowRegion, hlt]
  simp [accessWord, windowOffset, hin, hal]

/-- Only an aligned 32-bit access inside the window names a word of it. -/
theorem accessWord_ok {p : Config.Params} {addr bytes q : Nat} (h : accessWord p addr bytes = .ok q) :
    bytes = 4 ∧ addr = p.csrBase + 4 * q ∧ 4 * q < windowSize := by
  unfold accessWord windowOffset at h
  by_cases hin : inRegion (windowRegion p) addr = true
  · rw [if_pos hin] at h
    obtain ⟨hlo, hhi⟩ : p.csrBase ≤ addr ∧ addr < p.csrBase + windowSize := of_decide_eq_true hin
    by_cases hal : bytes = 4 ∧ (addr - p.csrBase) % 4 = 0
    · simp only [hal, and_self, if_true, Except.ok.injEq] at h
      omega
    · simp [hal] at h
  · simp [hin] at h

section
variable {s : State} {rest : List Input} {off : Nat} {r : Reg} {v : Word32}

/-- The step of an aligned 32-bit host write inside the window. -/
theorem step_write_window (hin : s.inputs = .write (s.params.csrBase + off) 4 v :: rest)
    (hlt : off < windowSize) (hal : off % 4 = 0) :
    step s = .next (writeWindow (off / 4) v { s with inputs := rest }) := by
  simp only [step, hin, hostWrite, accessWord_window s.params hlt hal]

/-- The step of an aligned 32-bit host read inside the window. -/
theorem step_read_window (hin : s.inputs = .read (s.params.csrBase + off) 4 :: rest)
    (hlt : off < windowSize) (hal : off % 4 = 0) :
    step s = .next (readWindow (off / 4) { s with inputs := rest }) := by
  simp only [step, hin, hostReadAt, accessWord_window s.params hlt hal]

/-- The step of a host write to a register. -/
theorem step_write_reg (hin : s.inputs = .write (s.params.csrBase + regOffset r) 4 v :: rest) :
    step s = .next (writeReg r v { s with inputs := rest }) := by
  rw [step_write_window hin (regOffset_lt_windowSize r) (regOffset_aligned r), writeWindow_of_reg (regAtWord_regOffset r)]

/-- The step of a host write to a register while the engine is idle. -/
theorem step_write_reg_idle (hin : s.inputs = .write (s.params.csrBase + regOffset r) 4 v :: rest)
    (hb : s.status.busy = false) : step s = .next (writeIdle r v { s with inputs := rest }) := by
  rw [step_write_reg hin]
  exact congrArg _ (writeReg_idle r v hb)

/-- The step of a host write to a writable register while the engine is busy (R32). -/
theorem step_write_reg_busy (hin : s.inputs = .write (s.params.csrBase + regOffset r) 4 v :: rest)
    (hw : regWritable r = true) (hb : s.status.busy = true) :
    step s = .next { s with inputs := rest, status := { s.status with ovr := true } } := by
  rw [step_write_reg hin]
  exact congrArg _ (writeReg_busy v hw hb)

/-- The step of a host read of a register. -/
theorem step_read_reg (hin : s.inputs = .read (s.params.csrBase + regOffset r) 4 :: rest) :
    step s = .next { s with inputs := rest, hostRead := regValue s r, draws := s.draws + 1 } := by
  rw [step_read_window hin (regOffset_lt_windowSize r) (regOffset_aligned r), readWindow_of_reg (regAtWord_regOffset r)]
  cases r <;> rfl

end

/-! ## Who sets OVR (R32) -/

/-- A write made while the engine is idle never sets OVR. -/
theorem writeIdle_ovr (r : Reg) (v : Word32) {s : State} (h : s.status.ovr = false) :
    (writeIdle r v s).status.ovr = false := by
  cases r with
  | cmd =>
    obtain ⟨i, _, heq⟩ | ⟨e, _, heq⟩ := presentCommand_cases v s <;> simp [writeIdle, heq]
  | _ => exact h

/-- A host write to a register sets OVR only where it is dropped. -/
theorem writeReg_sets_ovr {r : Reg} {v : Word32} {s : State} (h : s.status.ovr = false)
    (ht : (writeReg r v s).status.ovr = true) : regWritable r = true ∧ s.status.busy = true := by
  by_contra hdrop
  have hidle : writeReg r v s = writeIdle r v s := by
    rw [writeReg, if_neg (by simpa using hdrop)]
  rw [hidle, writeIdle_ovr r v h] at ht
  cases ht

/-- The message pass leaves STATUS as it is, whether it ends or raises (R122). -/
theorem absorbMessage_status {s u : State} (h : absorbMessage s = .ok u ∨ absorbMessage s = .error u) :
    u.status = s.status := by
  obtain ⟨x, _, heq⟩ | ⟨x, _, heq⟩ := absorbMessage_cases s <;>
  · rw [heq] at h
    obtain h | h := h <;> cases h
    rfl

@[simp] theorem absorbSeedBuffer_status (s : State) : (absorbSeedBuffer s).status = s.status := by
  obtain ⟨x, _, heq⟩ := absorbSeedBuffer_eq s
  simp [heq]

@[simp] theorem absorbSelf_status (s : State) : (absorbSelf s).status = s.status := by
  obtain ⟨x, _, heq⟩ := absorbSelf_eq s
  simp [heq]

/-- No command touches OVR. -/
theorem exec_ovr {i : Instr} {s t : State} (h : exec i s = .next t) : t.status.ovr = s.status.ovr := by
  cases i with
  | nop => cases h; simp
  | init => cases h; simp
  | seedx => cases h; simp
  | norm => cases h; simp
  | mix a => obtain ⟨_, rfl⟩ | ⟨_, _, _, rfl⟩ | ⟨_, _, _, rfl⟩ := execMix_next h <;> simp
  | absm =>
    obtain ⟨_, rfl⟩ | ⟨_, _, rfl⟩ | ⟨_, _, _, ⟨u, hu, rfl⟩ | ⟨u, hu, rfl⟩⟩ := execAbsm_next h
    · simp
    · simp
    · simp [absorbMessage_status (.inr hu)]
    · simp [absorbMessage_status (.inl hu)]
  | abss => obtain ⟨_, rfl⟩ | ⟨_, _, rfl⟩ | ⟨_, _, rfl⟩ := execAbss_next h <;> simp
  | absx => obtain ⟨_, rfl⟩ | ⟨_, rfl⟩ := execAbsx_next h <;> simp
  | final => obtain ⟨_, rfl⟩ | ⟨_, rfl⟩ := execFinal_next h <;> simp
  | hash =>
    obtain ⟨_, rfl⟩ | ⟨_, _, ⟨u, hu, rfl⟩ | ⟨u, hu, rfl⟩⟩ := execHash_next h
    · simp
    · simp [absorbMessage_status (.inr hu)]
    · simp [absorbMessage_status (.inl hu)]

/-- The engine's turn never touches OVR. -/
theorem engineTurn_ovr {s t : State} (h : engineTurn s = .next t) : t.status.ovr = s.status.ovr := by
  obtain ⟨_, heq⟩ | ⟨i, _, _, heq⟩ | ⟨e, _, _, heq⟩ := engineTurn_cases s <;> rw [heq] at h
  · cases h; rfl
  · exact exec_ovr h
  · cases h; simp

/-- Of all steps only a dropped host write sets OVR. -/
theorem step_sets_ovr {s t : State} (hstep : step s = .next t) (hs : s.status.ovr = false) (ht : t.status.ovr = true) :
    ∃ r v rest, regWritable r = true ∧ s.status.busy = true ∧
      s.inputs = .write (s.params.csrBase + regOffset r) 4 v :: rest := by
  have hne : t.status.ovr ≠ s.status.ovr := by simp [hs, ht]
  obtain ⟨_, h⟩ | ⟨rest, _, h⟩ | ⟨addr, bytes, v, rest, q, hin, hq, rfl⟩ | ⟨addr, bytes, rest, q, _, _, rfl⟩ |
    ⟨rest, _, _, h⟩ | ⟨rest, _, _, rfl⟩ | ⟨addr, data, rest, _, h⟩ | ⟨rest, _, rfl⟩ := step_cases hstep
  · exact absurd (engineTurn_ovr h) hne
  · exact absurd (engineTurn_ovr h) hne
  · obtain ⟨rfl, rfl, _⟩ := accessWord_ok hq
    cases hr : regAtWord q with
    | none => exact absurd (by rw [writeWindow_reserved hr]) hne
    | some r =>
      rw [writeWindow_of_reg hr] at ht
      obtain ⟨hw, hb⟩ := writeReg_sets_ovr (s := { s with inputs := rest }) hs ht
      exact ⟨r, v, rest, hw, hb, by rw [hin, regOffset_of_regAtWord hr]⟩
  · exact absurd (by simp) hne
  · exact absurd (engineTurn_ovr h) hne
  · exact absurd (by simp) hne
  · obtain ⟨_, _, _, rfl⟩ := hostMem_next h
    exact absurd rfl hne
  · simp [Status.zero] at ht

/-- Settles O11: `step_write_reg_busy` with its converse `step_sets_ovr`. -/
theorem busyWritesDropped : Obligations.BusyWritesDropped := by
  refine ⟨fun s r v rest hr hb hin => ?_, fun s t hstep hs ht => ?_, fun c s => by simp, fun s => rfl⟩
  · exact step_write_reg_busy hin ((regWritable_iff r).mpr hr) hb
  · obtain ⟨r, v, rest, hw, hb, hin⟩ := step_sets_ovr hstep hs ht
    exact ⟨hb, r, v, rest, (regWritable_iff r).mp hw, hin⟩

/-- Settles O13: a reserved offset is a word of the window that holds no register. -/
theorem reservedOffsetsInert : Obligations.ReservedOffsetsInert := by
  intro s off rest hoff
  have hlt : off < windowSize := by unfold windowSize; omega
  have hal : off % 4 = 0 := by omega
  have hnone : regAtWord (off / 4) = none := (regAtWord_eq_none_iff _).mpr (by omega)
  refine ⟨fun v hin => ?_, fun hin => ?_⟩
  · rw [step_write_window hin hlt hal, writeWindow_reserved hnone]
  · rw [step_read_window hin hlt hal, readWindow_reserved hnone]

/-- Settles O12: CMD is the register at offset 0. -/
theorem cmdRegisterAccess : Obligations.CmdRegisterAccess := by
  refine ⟨fun s c rest hb hin => ?_, fun s c rest hb hin => ?_, fun s rest hin => ?_⟩
  · exact step_write_reg_idle (r := .cmd) hin hb
  · exact step_write_reg_busy (r := .cmd) hin rfl hb
  · exact ⟨_, step_read_reg (r := .cmd) hin, rfl, rfl⟩

/-- Settles O17: both halves are registers of the window, and `regValue` says what they read as. -/
theorem stateWindowReads : Obligations.StateWindowReads :=
  fun _ k _ => ⟨fun hin => step_read_reg (r := .stLo k) hin, fun hin => step_read_reg (r := .stHi k) hin⟩

/-- Settles O18: `SBk` is a register of the window, and `regValue` says what it reads as. -/
theorem seedWindowReads : Obligations.SeedWindowReads :=
  fun _ k _ hin => step_read_reg (r := .sb k) hin

/-- The digest registers past `DG[0]` hold 0 (R25). -/
theorem State.Inv.dg_eq_zero {s : State} (h : s.Inv) {k : Fin 4} (hk : k ≠ 0) : s.dg[k] = 0 := by
  obtain ⟨h1, h2, h3⟩ := h.digestHighZero
  match k with
  | 0 => exact absurd rfl hk
  | 1 => exact h1
  | 2 => exact h2
  | 3 => exact h3

/-- Settles O19: by R25 the digest registers past `DG[0]` hold 0 in every state that meets the invariant. -/
theorem digestWindowReads : Obligations.DigestWindowReads := by
  refine ⟨fun s k rest => ⟨fun hin => step_read_reg (r := .digestLo k) hin, fun hin => step_read_reg (r := .digestHi k) hin⟩,
    fun s k rest hinv hb hk hin => ?_⟩
  have hdg := hinv.dg_eq_zero hk
  obtain hin | hin := hin
  · exact ⟨_, step_read_reg (r := .digestLo k) hin, by simp [regValue, windowValue, hb, hdg, loHalf]⟩
  · exact ⟨_, step_read_reg (r := .digestHi k) hin, by simp [regValue, windowValue, hb, hdg, hiHalf]⟩

end Sys2Proof.Machine
end

section
/-! SUPPORT. The byte views of the State and of the seed buffer (10_state.md R22 to R24): one rule for each view's read and write. -/

namespace Sys2Proof.Machine

/-! ## Bytes of one value (R13) -/

/-- Bit `i` of a byte of a value. -/
theorem byteOf_getLsbD {w : Nat} (v : BitVec w) (k : Nat) {i : Nat} (hi : i < 8) :
    (byteOf v k).getLsbD i = v.getLsbD (8 * k + i) := by
  simp [byteOf, hi]

/-- The mask of the low byte. -/
theorem byteMask_getLsbD (i : Nat) : (0xFF : Word64).getLsbD i = decide (i < 8) := by
  have hmask : (0xFF : Word64) = (BitVec.allOnes 8).setWidth 64 := by decide
  rw [hmask, BitVec.getLsbD_setWidth, BitVec.getLsbD_allOnes, ← Bool.decide_and, decide_eq_decide]
  omega

/-- Replacing a byte replaces its eight bits and no other (R22). -/
theorem setByteOf_getLsbD (v : Word64) (k : Nat) (b : Byte) {i : Nat} (hi : i < 64) :
    (setByteOf v k b).getLsbD i = if 8 * k ≤ i ∧ i < 8 * k + 8 then b.getLsbD (i - 8 * k) else v.getLsbD i := by
  simp only [setByteOf, BitVec.getLsbD_or, BitVec.getLsbD_and, BitVec.getLsbD_not, BitVec.getLsbD_shiftLeft,
    BitVec.getLsbD_setWidth, byteMask_getLsbD]
  by_cases hlo : i < 8 * k
  · have hout : ¬ (8 * k ≤ i ∧ i < 8 * k + 8) := by omega
    simp [hi, hlo, hout]
  · have hin : (8 * k ≤ i ∧ i < 8 * k + 8) ↔ i - 8 * k < 8 := by omega
    have hsub : i - 8 * k < 64 := by omega
    by_cases hbyte : i - 8 * k < 8
    · simp [hi, hlo, hin, hsub, hbyte]
    · simp [hi, hlo, hin, hbyte, BitVec.getLsbD_of_ge b _ (Nat.le_of_not_lt hbyte)]

/-- A byte of a value after one of its bytes was replaced. -/
theorem byteOf_setByteOf (v : Word64) (b : Byte) {k j : Nat} (hj : j < 8) :
    byteOf (setByteOf v k b) j = if j = k then b else byteOf v j := by
  refine BitVec.eq_of_getLsbD_eq fun i hi => ?_
  rw [byteOf_getLsbD _ _ hi, setByteOf_getLsbD v k b (by omega)]
  by_cases hjk : j = k
  · subst hjk
    simp [hi]
  · rw [if_neg (by omega), if_neg hjk, byteOf_getLsbD _ _ hi]

/-! ## Little-endian assembly (R13) -/

theorem le_append (xs ys : List Byte) : le (xs ++ ys) = le xs + 2 ^ (8 * xs.length) * le ys := by
  induction xs with
  | nil => simp [le]
  | cons x xs ih =>
    simp only [List.cons_append, le, ih, List.length_cons]
    ring

theorem byteOf_toNat {w : Nat} (v : BitVec w) (k : Nat) : (byteOf v k).toNat = v.toNat / 2 ^ (8 * k) % 2 ^ 8 := by
  simp [byteOf, Nat.shiftRight_eq_div_pow]

theorem bytesLE_succ {w : Nat} (n : Nat) (v : BitVec w) : bytesLE (n + 1) v = bytesLE n v ++ [byteOf v n] := by
  simp [bytesLE, List.range_succ]

@[simp] theorem bytesLE_length {w : Nat} (n : Nat) (v : BitVec w) : (bytesLE n v).length = n := by
  simp [bytesLE]

/-- The low bytes of a value assemble to its low bits. -/
theorem le_bytesLE {w : Nat} (n : Nat) (v : BitVec w) : le (bytesLE n v) = v.toNat % 2 ^ (8 * n) := by
  induction n with
  | zero => simp [bytesLE, le, Nat.mod_one]
  | succ n ih =>
    rw [bytesLE_succ, le_append, ih, bytesLE_length, le, le, byteOf_toNat, Nat.mul_succ, pow_add,
      Nat.mod_mul, Nat.mul_zero, Nat.add_zero]

/-- The bytes of two u32 values, the low one's first, assemble to their concatenation. -/
theorem le64_bytesLE_append (lo hi : Word32) : le64 (bytesLE 4 lo ++ bytesLE 4 hi) = hi ++ lo := by
  refine BitVec.eq_of_toNat_eq ?_
  rw [le64, le_append, le_bytesLE, le_bytesLE, bytesLE_length, BitVec.toNat_append, BitVec.toNat_ofNat]
  have hlo := lo.isLt
  have hhi := hi.isLt
  rw [← Nat.shiftLeft_add_eq_or_of_lt hlo, Nat.shiftLeft_eq]
  omega

/-! ## State bytes (R22, R23) -/

/-- State byte `k` is byte `k mod 8` of word `k div 8`. -/
theorem stByte_eq (st : Words) (i : Fin 8) {k : Nat} (hk : k < 8) : stByte st (8 * i.val + k) = byteOf st[i] k := by
  have hword : (8 * i.val + k) / 8 % 8 = i.val := by omega
  have hbyte : (8 * i.val + k) % 8 = k := by omega
  simp only [stByte, hword, hbyte]
  rfl

/-- Writing a state byte replaces that byte of its word and keeps every other word. -/
theorem setStByte_get (st : Words) {k : Nat} (b : Byte) (hk : k < 64) (i : Fin 8) :
    (setStByte st k b)[i] = if k / 8 = i.val then setByteOf st[i] (k % 8) b else st[i] := by
  have hword : k / 8 % 8 = k / 8 := by omega
  simp only [setStByte, hword, Fin.getElem_fin, Vector.getElem_set]
  by_cases h : k / 8 = i.val
  · simp only [h]
  · rw [if_neg h, if_neg h]

theorem stByte_setStByte (st : Words) {k j : Nat} (b : Byte) (hk : k < 64) (hj : j < 64) :
    stByte (setStByte st k b) j = if j = k then b else stByte st j := by
  obtain ⟨i, m, hm, rfl⟩ : ∃ (i : Fin 8) (m : Nat), m < 8 ∧ 8 * i.val + m = j :=
    ⟨⟨j / 8, by omega⟩, j % 8, by omega, by simp only; omega⟩
  rw [stByte_eq _ i hm, stByte_eq _ i hm, setStByte_get st b hk]
  by_cases hw : k / 8 = i.val
  · have hiff : m = k % 8 ↔ 8 * i.val + m = k := by omega
    rw [if_pos hw, byteOf_setByteOf _ _ hm]
    simp only [hiff]
  · rw [if_neg hw, if_neg (by omega)]

/-- Writing a word keeps the bytes of every other word. -/
theorem stByte_set (st : Words) (i : Fin 8) (v : Word64) {j : Nat} (hj : j < 64) (hne : j / 8 ≠ i.val) :
    stByte (st.set i.val v) j = stByte st j := by
  have hword : i.val ≠ j / 8 % 8 := by omega
  simp only [stByte, Vector.getElem_set_ne _ _ hword]

/-- The bytes of a word of the State are eight state bytes in a row. -/
theorem bytesLE_word (st : Words) (i : Fin 8) : bytesLE 8 st[i] = (List.range 8).map (fun k => stByte st (8 * i.val + k)) := by
  refine List.map_congr_left fun k hk => ?_
  rw [stByte_eq st i (List.mem_range.mp hk)]

/-- The image is the bytes of the eight words in order (R23). -/
theorem image_eq (st : Words) : image st = (List.finRange 8).flatMap (fun i => bytesLE 8 st[i]) := by
  simp only [bytesLE_word]
  rfl

/-! ## Seed buffer bytes (R24) -/

theorem sbByte_eq (sb : Vector Word32 4) (i : Fin 4) {k : Nat} (hk : k < 4) : sbByte sb (4 * i.val + k) = byteOf sb[i] k := by
  have hword : (4 * i.val + k) / 4 % 4 = i.val := by omega
  have hbyte : (4 * i.val + k) % 4 = k := by omega
  simp only [sbByte, hword, hbyte]
  rfl

/-- Eight bytes of the seed buffer in a row are the bytes of two of its words. -/
theorem sbBytes_pair (sb : Vector Word32 4) (i : Fin 2) :
    (List.range 8).map (fun k => sbByte sb (8 * i.val + k)) = bytesLE 4 sb[2 * i.val] ++ bytesLE 4 sb[2 * i.val + 1] := by
  match i with
  | 0 => rfl
  | 1 => rfl

/-- A 64-bit view of the seed buffer is the little-endian assembly of its eight bytes. -/
theorem sbWord_eq_le64 (sb : Vector Word32 4) (i : Fin 2) :
    sbWord sb i.val = le64 ((List.range 8).map (fun k => sbByte sb (8 * i.val + k))) := by
  rw [sbBytes_pair, le64_bytesLE_append]
  simp only [sbWord, Nat.mod_eq_of_lt i.isLt]

/-- Settles O47: the reads and writes of each view by the rules above; the two 64-bit views are `sbWord` by definition. -/
theorem byteViewsConsistent : Obligations.ByteViewsConsistent :=
  ⟨fun st i _ hk => stByte_eq st i hk,
   fun st _ _ v hk hj => stByte_setStByte st v hk hj,
   fun st k v i hk hne => by rw [setStByte_get st v hk, if_neg hne],
   fun st i v _ hj hne => stByte_set st i v hj hne,
   fun st => by rw [image_eq]; rfl,
   fun sb i _ hk => sbByte_eq sb i hk,
   fun _ => ⟨rfl, rfl⟩,
   sbWord_eq_le64⟩

end Sys2Proof.Machine
end

section
/-! SUPPORT. Host accesses inside the window of a wrong width or alignment: they name no word of it, and have no step
(20_memory.md R53). -/

namespace Sys2Proof.Machine

/-- An address inside the window is at its offset from the base (R36, R52). -/
theorem windowOffset_window (p : Config.Params) {off : Nat} (hlt : off < windowSize) :
    windowOffset p (p.csrBase + off) = some off := by
  have hin : inRegion (windowRegion p) (p.csrBase + off) = true := by simp [inRegion, windowRegion, hlt]
  rw [windowOffset, if_pos hin, Nat.add_sub_cancel_left]

/-- An access inside the window that is not an aligned 32-bit one names no word of it. -/
theorem accessWord_malformed (p : Config.Params) {off bytes : Nat} (hlt : off < windowSize)
    (hbad : bytes ≠ 4 ∨ off % 4 ≠ 0) : accessWord p (p.csrBase + off) bytes = .error .hostAccessNotWord := by
  have hnot : ¬ (bytes = 4 ∧ off % 4 = 0) := by omega
  simp only [accessWord, windowOffset_window p hlt, if_neg hnot]

/-- A host write that names no word of the window has no step. -/
theorem step_write_fault {s : State} {addr bytes : Nat} {v : Word32} {rest : List Input} {f : Fault}
    (hin : s.inputs = .write addr bytes v :: rest) (hf : accessWord s.params addr bytes = .error f) :
    step s = .fault f := by
  simp only [step, hin, hostWrite, hf]

/-- A host read that names no word of the window has no step. -/
theorem step_read_fault {s : State} {addr bytes : Nat} {rest : List Input} {f : Fault}
    (hin : s.inputs = .read addr bytes :: rest) (hf : accessWord s.params addr bytes = .error f) :
    step s = .fault f := by
  simp only [step, hin, hostReadAt, hf]

/-- Settles O21: the access names no word (`accessWord_malformed`), and without one neither a write nor a read has a step. -/
theorem malformedAccessStuck : Obligations.MalformedAccessStuck := by
  intro s off bytes rest hlt hbad
  have hf := accessWord_malformed s.params hlt hbad
  exact ⟨fun v hin => step_write_fault hin hf, fun hin => step_read_fault hin hf⟩

end Sys2Proof.Machine
end

section
/-! SUPPORT. The decoder as arithmetic on the word (30_encoding.md R71 to R80): the fields as quotients and remainders, the decoder
as the rule's pseudocode on them, and what presenting a word that raises does. -/

namespace Sys2Proof

/-! ## The fields of a command word (R71 to R73) -/

@[simp] theorem fieldOpc_toNat (c : Word32) : (fieldOpc c).toNat = c.toNat % 256 := by
  simp [fieldOpc]

theorem fieldOpc_eq_mix_iff (c : Word32) : fieldOpc c = 0x03 ↔ c.toNat % 256 = 3 := by
  rw [← BitVec.toNat_inj, fieldOpc_toNat]
  rfl

@[simp] theorem fieldRsvN_toNat (c : Word32) : (fieldRsvN c).toNat = c.toNat / 256 := by
  have hlt := c.isLt
  rw [fieldRsvN, BitVec.extractLsb'_toNat, Nat.shiftRight_eq_div_pow]
  omega

theorem fieldRsvN_eq_zero_iff (c : Word32) : fieldRsvN c = 0 ↔ c.toNat / 256 = 0 := by
  rw [← BitVec.toNat_inj, fieldRsvN_toNat]
  rfl

@[simp] theorem fieldRsvM_toNat (c : Word32) : (fieldRsvM c).toNat = c.toNat / 2048 := by
  have hlt := c.isLt
  rw [fieldRsvM, BitVec.extractLsb'_toNat, Nat.shiftRight_eq_div_pow]
  omega

theorem fieldRsvM_eq_zero_iff (c : Word32) : fieldRsvM c = 0 ↔ c.toNat / 2048 = 0 := by
  rw [← BitVec.toNat_inj, fieldRsvM_toNat]
  rfl

@[simp] theorem fieldA_toNat (c : Word32) : (fieldA c).toNat = c.toNat / 256 % 8 := by
  simp [fieldA, Nat.shiftRight_eq_div_pow]

theorem fieldA_eq_ofNat (c : Word32) : fieldA c = BitVec.ofNat 3 (c.toNat / 256 % 8) := by
  rw [← fieldA_toNat, BitVec.ofNat_toNat, BitVec.setWidth_eq]

theorem fieldA_eq_seven_iff (c : Word32) : fieldA c = 7 ↔ c.toNat / 256 % 8 = 7 := by
  rw [← BitVec.toNat_inj, fieldA_toNat]
  rfl

/-! ## The decoder on its fields (R74 to R80) -/

/-- The commands by opcode (R74). The place of MIX, whose command takes its pivot from the word, holds pivot 0 and is not read. -/
def instrByOpcode : List Instr :=
  [.nop, .init, .seedx, .mix 0, .absm, .abss, .absx, .final, .hash, .norm]

/-- The opcode map gives every defined opcode of format N its command. -/
theorem opcodeN_of_defined :
    ∀ opc : BitVec 8, opc.toNat < 10 → opc ≠ 0x03 → opcodeN opc = some (instrByOpcode.getD opc.toNat .nop) := by
  decide

/-- A reserved opcode raises, whatever the other fields hold (R75). -/
theorem decode_reservedOpcode {c : Word32} (h : 10 ≤ c.toNat % 256) : decode c = .error .illegalCmd := by
  rw [decode, if_pos (by rwa [fieldOpc_toNat])]

/-- The opcode of MIX is the one of format M (R72). -/
theorem decode_mixOpcode {c : Word32} (h : c.toNat % 256 = 3) :
    decode c =
      if c.toNat / 2048 ≠ 0 then .error .illegalCmd
      else if c.toNat / 256 % 8 = 7 then .error .badOperand
      else .ok (.mix (BitVec.ofNat 3 (c.toNat / 256 % 8))) := by
  have hdefined : ¬ 0x0A ≤ (fieldOpc c).toNat := by rw [fieldOpc_toNat]; omega
  rw [decode, if_neg hdefined, if_pos ((fieldOpc_eq_mix_iff c).mpr h)]
  simp only [ne_eq, fieldRsvM_eq_zero_iff, fieldA_eq_seven_iff]
  rw [fieldA_eq_ofNat]

/-- Every other defined opcode is of format N (R71). -/
theorem decode_formatN {c : Word32} (hlt : c.toNat % 256 < 10) (hmix : c.toNat % 256 ≠ 3) :
    decode c =
      if c.toNat / 256 ≠ 0 then .error .illegalCmd else .ok (instrByOpcode.getD (c.toNat % 256) .nop) := by
  have hdefined : ¬ 0x0A ≤ (fieldOpc c).toNat := by rw [fieldOpc_toNat]; omega
  have hopc : fieldOpc c ≠ 0x03 := mt (fieldOpc_eq_mix_iff c).mp hmix
  have hmap := opcodeN_of_defined (fieldOpc c) (by rwa [fieldOpc_toNat]) hopc
  rw [decode, if_neg hdefined, if_neg hopc, hmap, fieldOpc_toNat]
  simp only [ne_eq, fieldRsvN_eq_zero_iff]

/-- `decode` is R80's pseudocode, its fields written as numbers of the word. -/
theorem decode_eq_pseudocode (c : Word32) :
    decode c =
      if 10 ≤ c.toNat % 256 then .error .illegalCmd
      else if c.toNat % 256 = 3 then
        if c.toNat / 2048 ≠ 0 then .error .illegalCmd
        else if c.toNat / 256 % 8 = 7 then .error .badOperand
        else .ok (.mix (BitVec.ofNat 3 (c.toNat / 256 % 8)))
      else if c.toNat / 256 ≠ 0 then .error .illegalCmd
      else .ok (instrByOpcode.getD (c.toNat % 256) .nop) := by
  by_cases hres : 10 ≤ c.toNat % 256
  · rw [if_pos hres, decode_reservedOpcode hres]
  · rw [if_neg hres]
    by_cases hmix : c.toNat % 256 = 3
    · rw [if_pos hmix, decode_mixOpcode hmix]
    · rw [if_neg hmix, decode_formatN (Nat.lt_of_not_le hres) hmix]

end Sys2Proof

namespace Sys2Proof.Machine

/-- A word that raises ends its command at acceptance, with only its error to show for it (R80, R86, R153). -/
theorem presentCommand_of_error {c : Word32} {e : ErrorCode} (h : decode c = .error e) (s : State) :
    presentCommand c s =
      { s with status := failedStatus (errorNumber e) { s.status with ovr := false }, cur := c, raced := [] } := by
  obtain ⟨i, hok, _⟩ | ⟨e', herr, heq⟩ := presentCommand_cases c s
  · rw [h] at hok
    cases hok
  · rw [h] at herr
    cases herr
    rw [heq]
    rfl

/-- A command term with pivot 7 raises BAD_OPERAND before anything else is looked at (R77, R107). -/
theorem exec_mix_seven (s : State) : exec (.mix 7) s = .next (raiseError .badOperand s) := by
  have hnone : mixPivot 7 = none := (mixPivot_eq_none_iff 7).mpr rfl
  simp only [exec, execMix, hnone]

/-- Settles O2: `decode_eq_pseudocode`, and `presentCommand_of_error` for a word that raises. -/
theorem decodeReadsFields : Obligations.DecodeReadsFields :=
  ⟨decode_eq_pseudocode, fun _ _ s h => presentCommand_of_error h s⟩

/-- Settles O4: each of the three kinds of reserved word takes a branch of the pseudocode that raises ILLEGAL_CMD. -/
theorem reservedEncodingsIllegal : Obligations.ReservedEncodingsIllegal := by
  intro c hc
  have hillegal : decode c = .error .illegalCmd := by
    obtain hopc | ⟨hmix, hrsv⟩ | ⟨hlt, hmix, hrsv⟩ := hc
    · exact decode_reservedOpcode hopc
    · rw [decode_mixOpcode hmix, if_pos hrsv]
    · rw [decode_formatN hlt hmix, if_pos hrsv]
  exact ⟨hillegal, presentCommand_of_error hillegal⟩

/-- Settles O5: the word passes the test of its reserved field and fails the one of its pivot; the command term raises the same
error. -/
theorem pivotSevenBadOperand : Obligations.PivotSevenBadOperand := by
  have hbad : decode 0x00000703 = .error .badOperand := by
    rw [decode_mixOpcode (by decide), if_neg (by decide), if_pos (by decide)]
  exact ⟨hbad, presentCommand_of_error hbad, exec_mix_seven⟩

end Sys2Proof.Machine
end

section
/-! SUPPORT. The life cycle of a command (40_command_sequencing.md R85 to R92): what issues a command, how its execution ends, and
which steps set and clear BUSY. -/

namespace Sys2Proof.Machine

/-! ## From acceptance to execution (R86 to R88) -/

theorem presentCommand_of_ok {c : Word32} {i : Instr} (h : decode c = .ok i) (s : State) :
    presentCommand c s = acceptCommand c s := by
  simp only [presentCommand, h]

theorem engineTurn_idle {s : State} (hb : s.status.busy = false) : engineTurn s = .next s := by
  simp [engineTurn, hb]

theorem engineTurn_busy {s : State} {i : Instr} (hb : s.status.busy = true) (hd : decode s.cur = .ok i) :
    engineTurn s = exec i s := by
  simp [engineTurn, fetchCommand, hb, hd]

/-- A word that decodes is accepted, and its command runs on the accepted state. -/
theorem issue_of_ok {c : Word32} {i : Instr} (h : decode c = .ok i) (s : State) :
    issue c s = exec i (acceptCommand c s) := by
  rw [issue, presentCommand_of_ok h, engineTurn_busy rfl h]

/-! ## Completion (R89) -/

/-- A command that has a meaning ends by completing: its last update of STATUS clears BUSY and sets DONE. -/
theorem exec_completes {i : Instr} {s t : State} (h : exec i s = .next t) :
    t.status.busy = false ∧ t.status.done = true := by
  cases i with
  | nop => cases h; exact ⟨rfl, rfl⟩
  | init => cases h; exact ⟨rfl, rfl⟩
  | seedx => cases h; exact ⟨rfl, rfl⟩
  | norm => cases h; exact ⟨rfl, rfl⟩
  | mix a => obtain ⟨_, rfl⟩ | ⟨_, _, _, rfl⟩ | ⟨_, _, _, rfl⟩ := execMix_next h <;> exact ⟨rfl, rfl⟩
  | absm =>
    obtain ⟨_, rfl⟩ | ⟨_, _, rfl⟩ | ⟨_, _, _, ⟨u, _, rfl⟩ | ⟨u, _, rfl⟩⟩ := execAbsm_next h <;> exact ⟨rfl, rfl⟩
  | abss => obtain ⟨_, rfl⟩ | ⟨_, _, rfl⟩ | ⟨_, _, rfl⟩ := execAbss_next h <;> exact ⟨rfl, rfl⟩
  | absx => obtain ⟨_, rfl⟩ | ⟨_, rfl⟩ := execAbsx_next h <;> exact ⟨rfl, rfl⟩
  | final => obtain ⟨_, rfl⟩ | ⟨_, rfl⟩ := execFinal_next h <;> exact ⟨rfl, rfl⟩
  | hash => obtain ⟨_, rfl⟩ | ⟨_, _, ⟨u, _, rfl⟩ | ⟨u, _, rfl⟩⟩ := execHash_next h <;> exact ⟨rfl, rfl⟩

/-- The turn of a busy engine ends its command. -/
theorem engineTurn_completes {s t : State} (hb : s.status.busy = true) (h : engineTurn s = .next t) :
    t.status.busy = false ∧ t.status.done = true := by
  obtain ⟨hidle, _⟩ | ⟨i, _, _, heq⟩ | ⟨e, _, _, heq⟩ := engineTurn_cases s
  · rw [hb] at hidle
    cases hidle
  · exact exec_completes (heq ▸ h)
  · rw [heq] at h
    cases h
    exact ⟨rfl, rfl⟩

/-! ## Host writes and BUSY -/

/-- A write to an idle engine makes it busy only at CMD, with a word that decodes. -/
theorem writeIdle_sets_busy {r : Reg} {v : Word32} {s : State} (hs : s.status.busy = false)
    (ht : (writeIdle r v s).status.busy = true) :
    r = .cmd ∧ ∃ i, decode v = .ok i ∧ (writeIdle r v s).cur = v := by
  cases r with
  | cmd =>
    obtain ⟨i, hd, heq⟩ | ⟨e, _, heq⟩ := presentCommand_cases v s
    · exact ⟨rfl, i, hd, by rw [writeIdle, heq, acceptCommand_cur]⟩
    · simp [writeIdle, heq] at ht
  | _ => simp [writeIdle, hs] at ht

/-- A write to a read-only register is ignored (R36). -/
theorem writeReg_readOnly {r : Reg} (v : Word32) (s : State) (hw : regWritable r = false) : writeReg r v s = s := by
  rw [writeReg, hw, Bool.false_and, if_neg Bool.false_ne_true]
  cases r with
  | cmd | seed | msgLen | msgAddrLo | msgAddrHi => cases hw
  | _ => rfl

/-- A host write to the window leaves a busy engine busy: it is dropped, or its register is read-only. -/
theorem writeWindow_keeps_busy (q : Nat) (v : Word32) {s : State} (hb : s.status.busy = true) :
    (writeWindow q v s).status.busy = true := by
  cases hr : regAtWord q with
  | none => rwa [writeWindow_reserved hr]
  | some r =>
    rw [writeWindow_of_reg hr]
    cases hw : regWritable r with
    | true => rwa [writeReg_busy v hw hb]
    | false => rwa [writeReg_readOnly v s hw]

/-- Of all steps only the acceptance of a command sets BUSY (R86). -/
theorem step_sets_busy {s t : State} (hstep : step s = .next t) (hs : s.status.busy = false) (ht : t.status.busy = true) :
    ∃ c i rest, s.inputs = .write s.params.csrBase 4 c :: rest ∧ decode c = .ok i ∧ t.cur = c := by
  have hne : t.status.busy ≠ s.status.busy := by simp [hs, ht]
  obtain ⟨_, h⟩ | ⟨rest, _, h⟩ | ⟨addr, bytes, v, rest, q, hin, hq, rfl⟩ | ⟨addr, bytes, rest, q, _, _, rfl⟩ |
    ⟨rest, _, hb, _⟩ | ⟨rest, _, _, rfl⟩ | ⟨addr, data, rest, _, h⟩ | ⟨rest, _, rfl⟩ := step_cases hstep
  · rw [engineTurn_idle hs] at h
    cases h
    exact absurd rfl hne
  · rw [engineTurn_idle (s := { s with inputs := rest }) hs] at h
    cases h
    exact absurd rfl hne
  · obtain ⟨rfl, rfl, _⟩ := accessWord_ok hq
    cases hr : regAtWord q with
    | none => exact absurd (by rw [writeWindow_reserved hr]) hne
    | some r =>
      rw [writeWindow_of_reg hr, writeReg_idle r v (s := { s with inputs := rest }) hs] at ht ⊢
      obtain ⟨rfl, i, hd, hcur⟩ := writeIdle_sets_busy (s := { s with inputs := rest }) hs ht
      have hoff : 4 * q = 0 := (regOffset_of_regAtWord hr).symm
      exact ⟨v, i, rest, by rw [hin, hoff, Nat.add_zero], hd, hcur⟩
  · exact absurd (by simp) hne
  · rw [hs] at hb
    cases hb
  · exact absurd (by simp) hne
  · obtain ⟨_, _, _, rfl⟩ := hostMem_next h
    exact absurd rfl hne
  · simp [Status.zero] at ht

/-- Of all steps only the engine's turn and reset clear BUSY (R89, R170). -/
theorem step_clears_busy {s t : State} (hstep : step s = .next t) (hs : s.status.busy = true) (ht : t.status.busy = false) :
    (∃ rest, s.inputs = .reset :: rest) ∨ t.status.done = true := by
  have hne : t.status.busy ≠ s.status.busy := by simp [hs, ht]
  obtain ⟨_, h⟩ | ⟨rest, _, h⟩ | ⟨addr, bytes, v, rest, q, _, _, rfl⟩ | ⟨addr, bytes, rest, q, _, _, rfl⟩ |
    ⟨rest, _, _, h⟩ | ⟨rest, _, _, rfl⟩ | ⟨addr, data, rest, _, h⟩ | ⟨rest, hin, rfl⟩ := step_cases hstep
  · exact .inr (engineTurn_completes hs h).2
  · exact .inr (engineTurn_completes (s := { s with inputs := rest }) hs h).2
  · exact absurd ((writeWindow_keeps_busy q v (s := { s with inputs := rest }) hs).trans hs.symm) hne
  · exact absurd (by simp) hne
  · exact .inr (engineTurn_completes hs h).2
  · exact absurd (by simp) hne
  · obtain ⟨_, _, _, rfl⟩ := hostMem_next h
    exact absurd rfl hne
  · exact .inl ⟨rest, hin⟩

/-- Settles O9: `step_sets_busy` says how the engine leaves idle, `step_clears_busy` how it returns. -/
theorem engineLifeCycle : Obligations.EngineLifeCycle :=
  ⟨rfl, fun _ _ => step_sets_busy, fun _ _ => step_clears_busy⟩

/-! ## NOP (R92) -/

/-- The valid bits in the STATUS word (R29). -/
theorem statusWord_validBits (f : Status) :
    (statusWord f).getLsbD 8 = f.stateValid ∧ (statusWord f).getLsbD 9 = f.seedbufValid ∧
      (statusWord f).getLsbD 10 = f.digestValid := by
  simp only [statusWord, BitVec.getLsbD_append]
  simp

/-- STATUS after a command that was issued and completed without an error and touched no valid bit. -/
theorem doneStatus_of_accepted (f : Status) :
    doneStatus { f with ovr := false } = ⟨false, true, false, false, 0, f.stateValid, f.seedbufValid, f.digestValid⟩ := rfl

theorem decode_zero : decode 0x00000000 = .ok .nop := by
  rw [decode_formatN (by decide) (by decide), if_neg (by decide)]
  rfl

/-- NOP, issued, changes STATUS and the record of its acceptance only (R86, R89, R92). -/
theorem issue_nop (s : State) :
    issue 0x00000000 s = .next
      { s with status := doneStatus { s.status with ovr := false }, cur := 0x00000000, raced := [] } := by
  rw [issue_of_ok decode_zero]
  rfl

/-- Settles O10: NOP is its acceptance and its completion (`issue_nop`); in the example the valid bits are read off the STATUS
word, and completion fixes the rest of it. -/
theorem nopCompletes : Obligations.NopCompletes := by
  refine ⟨decode_zero, fun c hopc hrsv => ?_, fun s => rfl, issue_nop, fun s hs => ⟨_, issue_nop s, ?_⟩⟩
  · rw [decode_formatN (by omega) (by omega), if_pos hrsv]
  · obtain ⟨hst, hsb, hdg⟩ := statusWord_validBits s.status
    have hdone : doneStatus { s.status with ovr := false } = ⟨false, true, false, false, 0, true, false, false⟩ := by
      rw [doneStatus_of_accepted, ← hst, ← hsb, ← hdg, hs]
      decide
    exact (congrArg statusWord hdone).trans (by decide)

end Sys2Proof.Machine
end

section
/-! SUPPORT. The initializer and the seed expander (41_init_seed.md R97 to R101): the words of INIT and SEEDX, their effect, and the
laws of the expansion function. -/

namespace Sys2Proof.Machine

/-! ## The words of INIT and SEEDX (R71, R74, R76) -/

/-- A word of format N whose reserved field is not zero raises, whatever its opcode (R76). -/
theorem decode_formatN_reserved {c : Word32} (hlt : c.toNat % 256 < 10) (hmix : c.toNat % 256 ≠ 3)
    (hrsv : c.toNat / 256 ≠ 0) : decode c = .error .illegalCmd := by
  rw [decode_formatN hlt hmix, if_pos hrsv]

theorem decode_one : decode 0x00000001 = .ok .init := by
  rw [decode_formatN (by decide) (by decide), if_neg (by decide)]
  rfl

theorem decode_two : decode 0x00000002 = .ok .seedx := by
  rw [decode_formatN (by decide) (by decide), if_neg (by decide)]
  rfl

/-! ## INIT (R97) -/

/-- INIT loads the State from the constant store, clears the digest and completes; the rest is kept. -/
theorem exec_init (s : State) :
    exec .init s = .next
      { s with
        st := s.params.initStore.words
        dg := #v[0, 0, 0, 0]
        status := { doneStatus s.status with stateValid := true, digestValid := false } } := rfl

/-- INIT, issued: its effect, and the record of its acceptance (R86), which also clears OVR. -/
theorem issue_init (s : State) :
    issue 0x00000001 s = .next
      { s with
        st := s.params.initStore.words
        dg := #v[0, 0, 0, 0]
        status := { doneStatus s.status with stateValid := true, digestValid := false, ovr := false }
        cur := 0x00000001
        raced := [] } := by
  rw [issue_of_ok decode_one, exec_init]
  rfl

/-- Settles O24: INIT's effect is `exec_init`, from its word `issue_init`; in the example the State is read off the constant
store and STATUS off its fields. -/
theorem initCompletes : Obligations.InitCompletes := by
  refine ⟨decode_one, fun c hopc hrsv => decode_formatN_reserved (by omega) (by omega) hrsv, exec_init,
    fun s => ⟨_, issue_init s, rfl, rfl, rfl, rfl, rfl⟩, fun s hwords hstatus => ⟨_, issue_init s, ?_⟩⟩
  simp only [hwords, hstatus]
  exact ⟨rfl, rfl, rfl⟩

/-! ## The expansion function (R99, R100) -/

/-- The expansion, with its constants written out (R99). -/
theorem expandSeed_eq (s : Word32) :
    expandSeed s = #v[0xC5550690 - s, s + 1, ~~~(s - 1), (s + 1) * 0xF00DACCA] := rfl

/-- Word 1 gives the seed back, so no two seeds share an expansion (R100 (d)). -/
theorem expandSeed_injective {s s' : Word32} (h : expandSeed s = expandSeed s') : s = s' := by
  have hword1 : s + 1 = s' + 1 := congrArg (fun w => w[1]) h
  exact (BitVec.add_left_inj 1).mp hword1

/-- Word 2 is the seed's negation, as `~x = -x - 1` (R100 (a)). -/
theorem expandSeed_word2 (s : Word32) : (expandSeed s)[2] = -s :=
  calc ~~~(s - 1) = -(s - 1) - 1 := BitVec.not_eq_neg_add _
    _ = -s := by ring

/-- Word 0 is `SEED_C0` plus word 2 (R100 (b)). -/
theorem expandSeed_word0 (s : Word32) : (expandSeed s)[0] = 0xC5550690 + (expandSeed s)[2] :=
  calc seedC0 - s = seedC0 + -s := sub_eq_add_neg _ _
    _ = seedC0 + (expandSeed s)[2] := by rw [expandSeed_word2]

/-- Settles O26: the laws by the lemmas above; the values at 0, at the wrap of `s + 1` and at `SEED_C0` are closed. -/
theorem expansionLaws : Obligations.ExpansionLaws :=
  ⟨expandSeed_eq, expandSeed_word2, expandSeed_word0, fun _ => rfl, fun _ _ => expandSeed_injective,
    by decide, by decide, by decide⟩

/-! ## SEEDX (R101) -/

/-- SEEDX puts the expansion of SEED into the seed buffer and completes; the rest is kept. -/
theorem exec_seedx (s : State) :
    exec .seedx s = .next
      { s with
        sb := expandSeed s.seed
        status := { doneStatus s.status with seedbufValid := true } } := rfl

/-- The expansion of R101's example seed. -/
theorem expandSeed_12345 : expandSeed 12345 = #v[0xC554D657, 0x0000303A, 0xFFFFCFC7, 0xF37F05C4] := by decide

/-- Settles O25: SEEDX's effect is `exec_seedx` with the expansion written out; the example's buffer is `expandSeed_12345`, and
its two 64-bit views are computed from it. -/
theorem seedxCompletes : Obligations.SeedxCompletes := by
  refine ⟨decode_two, fun c hopc hrsv => decode_formatN_reserved (by omega) (by omega) hrsv, exec_seedx,
    fun s hseed => ⟨_, exec_seedx s, ?_⟩⟩
  simp only [hseed, expandSeed_12345]
  decide

end Sys2Proof.Machine
end

section
/-! SUPPORT. The mixer (42_mixer.md R106 to R111): what it does word by word, its inverse, which mixers commute, and what it fixes. -/

namespace Sys2Proof.Machine

/-! ## The words of `mix(A)` (R106, R110) -/

/-- The pivot word becomes its half-step. -/
theorem mix_get_pivot (a : Fin 7) (st : Words) : (mix a st)[a.val] = mixHalf st[a.val] := by
  rw [mix_get, if_neg (by omega), if_pos rfl]

/-- The partner word is mixed with the pivot word as step 1 left it. -/
theorem mix_get_partner (a : Fin 7) (st : Words) :
    (mix a st)[a.val + 1] = mixHalf (st[a.val + 1] ^^^ (mix a st)[a.val]) := by
  rw [mix_get_pivot, mix_get, if_pos rfl]

/-- Every other word is kept (R108). -/
theorem mix_get_outside {a : Fin 7} (st : Words) {k : Nat} (hk : k < 8) (hpivot : k ≠ a.val) (hpartner : k ≠ a.val + 1) :
    (mix a st)[k] = st[k] := by
  rw [mix_get, if_neg hpartner, if_neg hpivot]

/-- A word after `mix(A)` depends only on that word and on the pair before (R106). -/
theorem mix_get_congr {a : Fin 7} {st st' : Words} {k : Nat} (hk : k < 8) (hpivot : st[a.val] = st'[a.val])
    (hpartner : st[a.val + 1] = st'[a.val + 1]) (hword : st[k] = st'[k]) : (mix a st)[k] = (mix a st')[k] := by
  rw [mix_get, mix_get, hpivot, hpartner, hword]

theorem mixHalf_one : mixHalf 1 = 0xB94DDBE2A6D069FF := by decide

/-- The half-step maps 0 to 0: both products and the rotation do. -/
theorem mixHalf_zero : mixHalf 0 = 0 := by
  simp [mixHalf, rotr64]

/-- Settles O28: the words by the three rules above, with the half-step written out. -/
theorem mixPrimitive : Obligations.MixPrimitive := by
  refine ⟨fun _ => rfl, fun a st A B k hA hB => ?_, mixHalf_zero, mixHalf_one⟩
  obtain ⟨_, hA8⟩ := A
  obtain ⟨_, hB8⟩ := B
  obtain rfl := hA
  obtain rfl := hB
  refine ⟨mix_get_pivot a st, mix_get_partner a st, fun hkA hkB => ?_⟩
  exact mix_get_outside st k.isLt (fun h => hkA (Fin.ext h)) (fun h => hkB (Fin.ext h))

/-! ## Mixers of separate pairs (R108) -/

/-- Whether `mix(A)` runs before or after `mix(B)` makes no difference to a word outside the pair of B: `mix(B)` changes neither
that word nor the pair of A. -/
theorem mix_comm_get_outside {a b : Fin 7} (hsep : a.val + 2 ≤ b.val ∨ b.val + 2 ≤ a.val) (st : Words) {k : Nat} (hk : k < 8)
    (hpivot : k ≠ b.val) (hpartner : k ≠ b.val + 1) : (mix a (mix b st))[k] = (mix b (mix a st))[k] :=
  calc (mix a (mix b st))[k]
      = (mix a st)[k] := mix_get_congr hk (mix_get_outside st _ (by omega) (by omega))
          (mix_get_outside st _ (by omega) (by omega)) (mix_get_outside st hk hpivot hpartner)
    _ = (mix b (mix a st))[k] := (mix_get_outside (mix a st) hk hpivot hpartner).symm

/-- Mixers of separate pairs commute: every word is outside one of the two pairs. -/
theorem mix_comm_of_separate {a b : Fin 7} (hsep : a.val + 2 ≤ b.val ∨ b.val + 2 ≤ a.val) (st : Words) :
    mix a (mix b st) = mix b (mix a st) := by
  ext k hk : 1
  obtain ⟨hpivot, hpartner⟩ | hpair : (k ≠ b.val ∧ k ≠ b.val + 1) ∨ (k = b.val ∨ k = b.val + 1) := by omega
  · exact mix_comm_get_outside hsep st hk hpivot hpartner
  · exact (mix_comm_get_outside hsep.symm st hk (by omega) (by omega)).symm

/-- A State on which `mix(0)` and `mix(1)` do not commute: `mix(1)` first finds a zero pair, `mix(0)` first makes its pivot nonzero. -/
theorem mix_zero_one_not_comm :
    mix 0 (mix 1 #v[1, 0, 0, 0, 0, 0, 0, 0]) ≠ mix 1 (mix 0 #v[1, 0, 0, 0, 0, 0, 0, 0]) := by decide

/-- Settles O30: the frame, the commuting of separate pairs, and the pair of neighbours above. -/
theorem mixOfSeparatePairsCommutes : Obligations.MixOfSeparatePairsCommutes :=
  ⟨fun _ st k hpivot hpartner => mix_get_outside st k.isLt hpivot hpartner, fun _ _ st hsep => mix_comm_of_separate hsep st,
    0, 1, _, rfl, mix_zero_one_not_comm⟩

/-! ## The inverse of the half-step (R109) -/

/-- A right rotation of a u64 (R12) is the library's. -/
theorem rotr64_eq_rotateRight (x : Word64) {r : Nat} (hr : r < 64) : rotr64 x r = x.rotateRight r := by
  rw [rotr64, BitVec.rotateRight_def, Nat.mod_eq_of_lt hr]

/-- A left rotation undoes the right rotation by as many bits: a bit that wraps in the one wraps back in the other. -/
theorem rotateLeft_rotateRight {w : Nat} (x : BitVec w) (r : Nat) : (x.rotateRight r).rotateLeft r = x := by
  ext i hi
  have hr : r % w < w := Nat.mod_lt r (by omega)
  rw [BitVec.getElem_rotateLeft]
  split_ifs with hwrap
  · rw [BitVec.getElem_rotateRight, dif_neg (by omega)]
    congr 1
    omega
  · rw [BitVec.getElem_rotateRight, dif_pos (by omega)]
    congr 1
    omega

/-- A right rotation undoes the left rotation by as many bits. -/
theorem rotateRight_rotateLeft {w : Nat} (x : BitVec w) (r : Nat) : (x.rotateLeft r).rotateRight r = x := by
  ext i hi
  have hr : r % w < w := Nat.mod_lt r (by omega)
  rw [BitVec.getElem_rotateRight]
  split_ifs with hwrap
  · rw [BitVec.getElem_rotateLeft, dif_neg (by omega)]
    congr 1
    omega
  · rw [BitVec.getElem_rotateLeft, dif_pos (by omega)]
    congr 1
    omega

/-- `P^-1` (R109). -/
def mixPInv : Word64 := 0x34115B1E5F75270D

/-- `Q^-1` (R109). -/
def mixQInv : Word64 := 0xEB5004037AB46A01

theorem mixP_mul_inv : mixP * mixPInv = 1 := by decide
theorem mixQ_mul_inv : mixQ * mixQInv = 1 := by decide

/-- The inverse half-step `f^-1(y) = rotl64(y * Q^-1, 23) * P^-1` (R109). -/
def mixHalfInv (y : Word64) : Word64 := (y * mixQInv).rotateLeft rotWord * mixPInv

theorem mixHalfInv_mixHalf (x : Word64) : mixHalfInv (mixHalf x) = x :=
  calc (rotr64 (x * mixP) rotWord * mixQ * mixQInv).rotateLeft rotWord * mixPInv
      = (rotr64 (x * mixP) rotWord).rotateLeft rotWord * mixPInv := by rw [mul_assoc _ mixQ, mixQ_mul_inv, mul_one]
    _ = x * mixP * mixPInv := by rw [rotr64_eq_rotateRight _ (by decide), rotateLeft_rotateRight]
    _ = x := by rw [mul_assoc, mixP_mul_inv, mul_one]

theorem mixHalf_mixHalfInv (y : Word64) : mixHalf (mixHalfInv y) = y :=
  calc rotr64 ((y * mixQInv).rotateLeft rotWord * mixPInv * mixP) rotWord * mixQ
      = rotr64 ((y * mixQInv).rotateLeft rotWord) rotWord * mixQ := by
          rw [mul_assoc _ mixPInv, mul_comm mixPInv, mixP_mul_inv, mul_one]
    _ = y * mixQInv * mixQ := by rw [rotr64_eq_rotateRight _ (by decide), rotateRight_rotateLeft]
    _ = y := by rw [mul_assoc, mul_comm mixQInv, mixQ_mul_inv, mul_one]

/-! ## The inverse of `mix(A)` (R109) -/

/-- The steps of `mix(A)` undone: the partner's half-step, its XOR with the pivot word that step 1 wrote, the pivot's half-step. -/
def unmix (a : Fin 7) (st : Words) : Words :=
  (st.set a.val (mixHalfInv st[a.val])).set (a.val + 1) (mixHalfInv st[a.val + 1] ^^^ st[a.val])

theorem unmix_get (a : Fin 7) (st : Words) (k : Nat) (hk : k < 8) :
    (unmix a st)[k] =
      if k = a.val + 1 then mixHalfInv st[a.val + 1] ^^^ st[a.val]
      else if k = a.val then mixHalfInv st[a.val] else st[k] := by
  simp only [unmix, Vector.getElem_set, eq_comm (a := k)]

theorem unmix_mix (a : Fin 7) : Function.LeftInverse (unmix a) (mix a) := by
  intro st
  ext k hk : 1
  rw [unmix_get, mix_get_partner, mixHalfInv_mixHalf]
  split_ifs with hpartner hpivot
  · subst hpartner
    rw [BitVec.xor_assoc, BitVec.xor_self, BitVec.xor_zero]
  · subst hpivot
    rw [mix_get_pivot, mixHalfInv_mixHalf]
  · exact mix_get_outside st hk hpivot hpartner

theorem mix_unmix (a : Fin 7) : Function.RightInverse (unmix a) (mix a) := by
  intro st
  ext k hk : 1
  have hpivotBack : mixHalf (unmix a st)[a.val] = st[a.val] := by
    rw [unmix_get, if_neg (by omega), if_pos rfl, mixHalf_mixHalfInv]
  rw [mix_get, hpivotBack]
  split_ifs with hpartner hpivot
  · subst hpartner
    rw [unmix_get, if_pos rfl, BitVec.xor_assoc, BitVec.xor_self, BitVec.xor_zero, mixHalf_mixHalfInv]
  · subst hpivot
    rfl
  · rw [unmix_get, if_neg hpartner, if_neg hpivot]

/-- Settles O31: `unmix` is the inverse on both sides, and `mixHalfInv` that of the half-step. -/
theorem mixBijective : Obligations.MixBijective :=
  ⟨fun a => ⟨(unmix_mix a).injective, (mix_unmix a).surjective⟩, mixP_mul_inv, mixQ_mul_inv, mixHalfInv_mixHalf,
    mixHalf_mixHalfInv⟩

/-! ## Zero pairs (R111) -/

theorem mix_get_pivot_of_zero {a : Fin 7} {st : Words} (hpivot : st[a.val] = 0) : (mix a st)[a.val] = 0 := by
  rw [mix_get_pivot, hpivot, mixHalf_zero]

theorem mix_get_partner_of_zero {a : Fin 7} {st : Words} (hpivot : st[a.val] = 0) (hpartner : st[a.val + 1] = 0) :
    (mix a st)[a.val + 1] = 0 := by
  rw [mix_get_partner, mix_get_pivot_of_zero hpivot, hpartner, BitVec.xor_self]
  exact mixHalf_zero

/-- A mixer whose pair is zero changes nothing: the pair stays zero and the other words are kept. -/
theorem mix_eq_self_of_zero {a : Fin 7} {st : Words} (hpivot : st[a.val] = 0) (hpartner : st[a.val + 1] = 0) :
    mix a st = st := by
  ext k hk : 1
  by_cases hkA : k = a.val
  · subst hkA
    rw [mix_get_pivot_of_zero hpivot, hpivot]
  by_cases hkB : k = a.val + 1
  · subst hkB
    rw [mix_get_partner_of_zero hpivot hpartner, hpartner]
  exact mix_get_outside st hk hkA hkB

/-- Every word of the State of zeros is 0. -/
theorem zeroWords_get (k : Nat) (hk : k < 8) : (#v[0, 0, 0, 0, 0, 0, 0, 0] : Words)[k] = 0 := by
  interval_cases k <;> rfl

/-- A run of mixers changes nothing where no single mixer does. -/
theorem mixRun_eq_self {st : Words} (hfix : ∀ a, mix a st = st) (as : List (Fin 7)) : mixRun as st = st :=
  List.foldl_fixed' hfix as

/-- Settles O32: a zero pair stays zero, so each mixer fixes the State of zeros, and so does every run of them. -/
theorem mixFixesZero : Obligations.MixFixesZero := by
  refine ⟨fun a st A B hA hB hpivot hpartner => ?_,
    mixRun_eq_self fun a => mix_eq_self_of_zero (zeroWords_get _ _) (zeroWords_get _ _)⟩
  obtain ⟨_, hA8⟩ := A
  obtain ⟨_, hB8⟩ := B
  obtain rfl := hA
  obtain rfl := hB
  exact ⟨mix_get_pivot_of_zero hpivot, mix_get_partner_of_zero hpivot hpartner⟩

end Sys2Proof.Machine
end

section
/-! SUPPORT. The finalizer (44_finalize_hash.md R130, R131): the function in the rule's two forms, and FINAL with its word, its
effect and its error. -/

namespace Sys2Proof.Machine

/-! ## The finalizer function (R130) -/

/-- The rule's two forms agree: the four subtractions are one negation of the sum. -/
theorem finWord_eq_neg_sum (st : Words) : finWord st = -(st[2] + st[3] + st[6] + st[7]) := by
  unfold finWord
  ring

/-- The words 0, 1, 4 and 5 do not enter. -/
theorem finWord_congr {st st' : Words} (h2 : st[2] = st'[2]) (h3 : st[3] = st'[3]) (h6 : st[6] = st'[6])
    (h7 : st[7] = st'[7]) : finWord st = finWord st' := by
  simp only [finWord, h2, h3, h6, h7]

/-- Settles O39: the first form is the definition, the second `finWord_eq_neg_sum`, the independence `finWord_congr`. -/
theorem finalizerFunction : Obligations.FinalizerFunction :=
  ⟨fun _ => rfl, finWord_eq_neg_sum, fun _ _ => finWord_congr⟩

/-! ## FINAL (R131) -/

theorem decode_seven : decode 0x00000007 = .ok .final := by
  rw [decode_formatN (by decide) (by decide), if_neg (by decide)]
  rfl

/-- FINAL of a valid State puts its digest into DG and clears the State and the seed buffer; the rest is kept. -/
theorem exec_final_of_valid {s : State} (hv : s.status.stateValid = true) :
    exec .final s = .next
      { s with
        dg := #v[finWord s.st, 0, 0, 0]
        status := { doneStatus s.status with digestValid := true, stateValid := false, seedbufValid := false } } := by
  simp only [exec, execFinal, hv, Bool.true_eq_false, if_false]
  rfl

/-- FINAL without a valid State raises STATE_NOT_VALID, with only STATUS to show for it. -/
theorem exec_final_of_not_valid {s : State} (hv : s.status.stateValid = false) :
    exec .final s = .next { s with status := failedStatus 3 s.status } := by
  simp only [exec, execFinal, hv, if_true]
  rfl

/-- INIT then FINAL, issued from any state: the digest is that of the constant store. -/
theorem issueAll_init_final (s : State) :
    ∃ t, issueAll [0x00000001, 0x00000007] s = .next t ∧ t.dg = #v[finWord s.params.initStore.words, 0, 0, 0] ∧
      t.status = ⟨false, true, false, false, 0, false, false, true⟩ := by
  simp only [issueAll, issue_init, issue_of_ok decode_seven]
  rw [exec_final_of_valid rfl]
  exact ⟨_, rfl, rfl, rfl⟩

/-- Settles O40: FINAL's effect and error by the rules above; the example is `issueAll_init_final` on the words of TP1. -/
theorem finalCompletes : Obligations.FinalCompletes := by
  refine ⟨decode_seven, fun c hopc hrsv => decode_formatN_reserved (by omega) (by omega) hrsv,
    fun s => exec_final_of_valid, fun s => exec_final_of_not_valid, fun s hwords _ => ?_⟩
  obtain ⟨t, ht, hdg, hstatus⟩ := issueAll_init_final s
  refine ⟨t, ht, ?_, ?_⟩
  · rw [hdg, hwords]
    decide
  · rw [hstatus]
    decide

end Sys2Proof.Machine
end

section
/-! SUPPORT. An absorption pass over data that can be read is the absorption of a byte list (43_absorption.md R112 to R129): the
engine's pipeline, step by step, against the loops of R129. -/

namespace Sys2Proof.Machine

/-! ## Reading the data (R112) -/

/-- A read inside a byte list returns that part of it. -/
theorem readBytes_list {data : List Byte} {a n : Nat} (h : a + n ≤ data.length) :
    readBytes (data[·]?) a n = some ((data.drop a).take n) := by
  induction n generalizing a with
  | zero => rfl
  | succ n ih =>
    have ha : a < data.length := by omega
    rw [readBytes, ih (by omega), List.getElem?_eq_getElem ha, List.drop_eq_getElem_cons ha, List.take_succ_cons]

theorem dataWords_length (data : List Byte) : (dataWords data).length = data.length / 8 := by
  simp [dataWords]

theorem dataWords_get {data : List Byte} {i : Nat} (h : i < (dataWords data).length) :
    (dataWords data)[i] = le64 ((data.drop (8 * i)).take 8) := by
  simp [dataWords]

/-! ## The word phase (R114 to R116) -/

/-- The two's complement step of a counter is a subtraction (R115, R119). -/
theorem add_not_add_one {w : Nat} (c b : BitVec w) : c + (~~~b + 1) = c - b := by
  rw [sub_eq_add_neg, BitVec.neg_eq_not_add]
  rfl

/-- A word step is one turn of the word loop, when the cursor stands at its index modulo 8. -/
theorem refWordLoop_cons (w : Word64) (ws : List Word64) {i : Nat} {x : Pipe} (hs : x.pass.sidx.val = i % 8) :
    refWordLoop (w :: ws) i x.pass.ctr x.st =
      refWordLoop ws (i + 1) (wordStepOn w i x).pass.ctr (wordStepOn w i x).st := by
  have hodd : i % 8 % 2 = i % 2 := by omega
  simp only [refWordLoop, wordStepOn, gatedPivot, hs, hodd, add_not_add_one]
  rfl

/-- A word step moves the cursor on, modulo 8 (R116). -/
theorem wordStepOn_sidx (w : Word64) {i : Nat} {x : Pipe} (hs : x.pass.sidx.val = i % 8) :
    (wordStepOn w i x).pass.sidx.val = (i + 1) % 8 := by
  simp only [wordStepOn, Fin.val_add, hs]
  omega

/-- After `n` word steps the pipeline stands in the word loop of R129 before its data word `n`. -/
theorem wordPhase_list {data : List Byte} {n : Nat} {x : Pipe} (hn : n ≤ data.length / 8) (hs : x.pass.sidx = 0) :
    ∃ y, wordPhase (data[·]?) n x = .ok y ∧ y.pass.sidx.val = n % 8 ∧ y.pass.c8 = x.pass.c8 ∧
      refWordLoop (dataWords data) 0 x.pass.ctr x.st = refWordLoop ((dataWords data).drop n) n y.pass.ctr y.st := by
  induction n with
  | zero => exact ⟨x, rfl, by rw [hs]; rfl, rfl, rfl⟩
  | succ n ih =>
    obtain ⟨y, hy, hsidx, hc8, hloop⟩ := ih (by omega)
    have hlt : n < (dataWords data).length := by rw [dataWords_length]; omega
    have hread : readBytes (data[·]?) (8 * n) 8 = some ((data.drop (8 * n)).take 8) := readBytes_list (by omega)
    refine ⟨wordStepOn (dataWords data)[n] n (atElement .word n y), ?_, wordStepOn_sidx _ hsidx, hc8, ?_⟩
    · simp only [wordPhase, hy, wordStep, hread, dataWords_get hlt]
    · rw [hloop, List.drop_eq_getElem_cons hlt]
      exact refWordLoop_cons _ _ (x := atElement .word n y) hsidx

/-! ## The byte phase (R118 to R120) -/

/-- A byte step is one turn of the byte loop. -/
theorem refByteLoop_cons (b : Byte) (bs : List Byte) (j : Nat) (x : Pipe) :
    refByteLoop (b :: bs) j x.pass.c8 x.st = refByteLoop bs (j + 1) (byteStepOn b j x).pass.c8 (byteStepOn b j x).st := by
  simp only [refByteLoop, byteStepOn, add_not_add_one]
  rfl

/-- After `n` byte steps from index `start` the pipeline stands in the byte loop of R129 before its data byte `start + n`. -/
theorem bytePhase_list {data : List Byte} {start n : Nat} (x : Pipe) (hn : start + n ≤ data.length) :
    ∃ y, bytePhase (data[·]?) start n x = .ok y ∧
      refByteLoop (data.drop start) start x.pass.c8 x.st =
        refByteLoop (data.drop (start + n)) (start + n) y.pass.c8 y.st := by
  induction n with
  | zero => exact ⟨x, rfl, rfl⟩
  | succ n ih =>
    obtain ⟨y, hy, hloop⟩ := ih (by omega)
    have hlt : start + n < data.length := by omega
    refine ⟨byteStepOn data[start + n] (start + n) (atElement .byte (start + n) y), ?_, ?_⟩
    · simp only [bytePhase, hy, byteStep, List.getElem?_eq_getElem hlt]
    · rw [hloop, List.drop_eq_getElem_cons hlt]
      exact refByteLoop_cons _ _ _ (atElement .byte (start + n) y)

/-! ## The whole pass (R112, R129) -/

/-- A pass over data that answers with the bytes of a list absorbs that list. -/
theorem absorb_eq_absorbRef {d : Nat → Option Byte} {data : List Byte} (p : Config.Params) (st : Words)
    (hd : ∀ k, k < data.length → d k = data[k]?) :
    ∃ x, absorb p d data.length st = .ok x ∧ x.st = absorbRef p data st := by
  rw [absorb_congr p st hd]
  obtain ⟨y, hy, -, hc8, hwords⟩ :=
    wordPhase_list (data := data) (x := startPass p data.length st) (Nat.le_refl (data.length / 8)) rfl
  obtain ⟨z, hz, hbytes⟩ :=
    bytePhase_list (data := data) (start := 8 * (data.length / 8)) (n := data.length % 8) (wordFlush y) (by omega)
  have hwordEnd : refWordLoop (dataWords data) 0 p.wordCtrInit st = y.st := by
    rw [List.drop_eq_nil_of_le (by rw [dataWords_length])] at hwords
    exact hwords
  have hbyteEnd : refByteLoop (data.drop (8 * (data.length / 8))) (8 * (data.length / 8)) p.byteCtrInit
      (wordFlush y).st = z.st := by
    have hseed : (wordFlush y).pass.c8 = p.byteCtrInit := hc8
    rw [hseed, Nat.div_add_mod, List.drop_length] at hbytes
    exact hbytes
  refine ⟨closingFlush z, by simp only [absorb, hy, hz], ?_⟩
  simp only [absorbRef, hwordEnd]
  exact congrArg (mixRun [0, 1, 2, 3, 4, 5, 6]) hbyteEnd.symm

/-! ## The three data sources (R122, R124, R126) -/

/-- The seed buffer answers with its sixteen bytes (R102). -/
theorem seedbufByte_eq (sb : Vector Word32 4) {k : Nat} (hk : k < 16) : seedbufByte sb k = (seedBytes sb)[k]? := by
  interval_cases k <;> rfl

/-- The snapshot answers with the bytes of its image (R23). -/
theorem snapByte_eq (st : Words) {k : Nat} (hk : k < 64) : snapByte st k = (image st)[k]? := by
  simp [snapByte, image, hk]

/-- The message answers with the bytes the engine sees, when every one of them can be read (R66, R151). -/
theorem messageByte_eq {s : State} (hr : MessageReadable s) {k : Nat} (hk : k < msgCount s) :
    messageByte s k = (messageSeen s)[k]? := by
  have hk' : k < s.msgLen.toInt.toNat := hk
  simp only [messageByte, hr k hk', if_true, messageSeen, List.getElem?_map, List.getElem?_range hk', Option.map_some]
  split <;> rfl

theorem messageSeen_length (s : State) : (messageSeen s).length = msgCount s := by
  simp [messageSeen, msgCount, msgLength]

/-- The pass over a readable message absorbs the bytes the engine sees, and changes nothing but ST and hidden registers (R122). -/
theorem absorbMessage_of_readable {s : State} (hr : MessageReadable s) :
    ∃ u, absorbMessage s = .ok u ∧ u.st = absorbRef s.params (messageSeen s) s.st ∧
      u = { s with st := u.st, pass := u.pass, draws := u.draws } := by
  have hd : ∀ k, k < (messageSeen s).length → messageByte s k = (messageSeen s)[k]? :=
    fun k hk => messageByte_eq hr (messageSeen_length s ▸ hk)
  obtain ⟨x, hx, hst⟩ := absorb_eq_absorbRef s.params s.st hd
  rw [messageSeen_length] at hx
  refine ⟨{ writePipe x s with draws := s.draws + msgCount s }, ?_, hst, rfl⟩
  simp only [absorbMessage, hx]

/-- The pass over the seed buffer absorbs its sixteen bytes (R124). -/
theorem absorbSeedBuffer_st (s : State) : (absorbSeedBuffer s).st = absorbRef s.params (seedBytes s.sb) s.st := by
  obtain ⟨x, hx, hst⟩ := absorb_eq_absorbRef (data := seedBytes s.sb) s.params s.st fun _ => seedbufByte_eq s.sb
  obtain ⟨y, hy, heq⟩ := absorbSeedBuffer_eq s
  obtain rfl : x = y := Except.ok.inj (hx.symm.trans hy)
  rw [heq, writePipe_st, hst]

/-- The pass over the State's own image absorbs its 64 bytes (R126). -/
theorem absorbSelf_st (s : State) : (absorbSelf s).st = absorbRef s.params (image s.st) s.st := by
  have hlen : (image s.st).length = 64 := by simp [image]
  obtain ⟨x, hx, hst⟩ :=
    absorb_eq_absorbRef (data := image s.st) s.params s.st fun _ hk => snapByte_eq s.st (hlen ▸ hk)
  obtain ⟨y, hy, heq⟩ := absorbSelf_eq s
  rw [hlen] at hx
  obtain rfl : x = y := Except.ok.inj (hx.symm.trans hy)
  rw [heq, writePipe_st, hst]

@[simp] theorem absorbSeedBuffer_params (s : State) : (absorbSeedBuffer s).params = s.params := by
  obtain ⟨_, _, heq⟩ := absorbSeedBuffer_eq s
  rw [heq, writePipe_params]

end Sys2Proof.Machine
end

section
/-! SUPPORT. The digest of HASH (44_finalize_hash.md R134 to R138): that of the message the engine sees, under the seed. -/

namespace Sys2Proof.Machine

/-! ## The message (R65, R66) -/

/-- A message that does not race is seen as the host wrote it. -/
theorem messageSeen_of_quiet {s : State} (hq : MessageQuiet s) : messageSeen s = messageWritten s := by
  have hwindow : meetsWindow s.params s.msgAddr.toNat (msgCount s) = false := by
    rw [meetsWindow, Bool.and_eq_false_iff, meetsRegion_eq_false_iff]
    by_cases hshared : s.params.windowShared = true
    · exact .inr fun n hn => Bool.eq_false_iff.mpr fun hin => (hq n hn).2 ⟨hshared, hin⟩
    · exact .inl (Bool.eq_false_iff.mpr hshared)
  refine List.map_congr_left fun n hn => ?_
  have hraced : messageRaced s (s.msgAddr.toNat + n) = false := by
    simp [messageRaced, hwindow, (hq n (List.mem_range.mp hn)).1]
  rw [hraced, if_neg Bool.false_ne_true]

/-- A message of length 0 has no bytes, wherever `MSG_ADDR` points (R137). -/
theorem messageSeen_of_empty {s : State} (h : s.msgLen = 0) : messageSeen s = [] := by
  rw [← List.length_eq_zero_iff, messageSeen_length, msgCount, msgLength, h]
  rfl

/-! ## The digest of HASH (R134) -/

/-- HASH with legal arguments in plain memory, once its message pass has ended without an error. -/
theorem exec_hash_of_absorbed {s u : State} (ha : ArgsLegal s) (hp : MessagePlain s)
    (hu : absorbMessage (initialiseState (expandSeedBuffer s)) = .ok u) :
    exec .hash s = .next (completeCommand (finaliseState (absorbSelf (absorbSeedBuffer u)))) := by
  have hvalid := (messageInvalid_eq_false_iff s).mpr ha
  have hplain := (messageNotIdempotent_eq_false_iff s).mpr hp
  simp only [exec, execHash, hvalid, hplain, hu, Bool.false_eq_true, if_false]

/-- After the message pass, the passes over the seed buffer and over the State's image end in the State of R134 step 6. -/
theorem absorbSelf_absorbSeedBuffer_st {u : State} {p : Config.Params} {seed : Word32} {data : List Byte}
    (hparams : u.params = p) (hsb : u.sb = expandSeed seed) (hst : u.st = absorbRef p data p.initStore.words) :
    (absorbSelf (absorbSeedBuffer u)).st = hashStateRef p seed data := by
  rw [absorbSelf_st, absorbSeedBuffer_st, absorbSeedBuffer_params, hparams, hsb, hst, expandSeed_eq, hashStateRef]

/-- The digest is the finalizer function of the State of R134 step 6. -/
theorem digestRef_eq_finWord (p : Config.Params) (seed : Word32) (data : List Byte) :
    digestRef p seed data = finWord (hashStateRef p seed data) := by
  rw [finWord_eq_neg_sum, digestRef]

/-- The steps before the message pass leave the message as it was (R134 steps 2 and 3). -/
theorem messageSeen_initialise_expand (s : State) :
    messageSeen (initialiseState (expandSeedBuffer s)) = messageSeen s := rfl

/-- HASH with legal arguments and a readable message in plain memory ends with the digest of that message in DG. -/
theorem exec_hash_digest {s : State} (ha : ArgsLegal s) (hr : MessageReadable s) (hp : MessagePlain s) :
    ∃ t, exec .hash s = .next t ∧ t.status.digestValid = true ∧
      t.dg = #v[digestRef s.params s.seed (messageSeen s), 0, 0, 0] := by
  obtain ⟨u, hu, hst, hframe⟩ := absorbMessage_of_readable (s := initialiseState (expandSeedBuffer s)) hr
  have hparams : u.params = s.params := by simpa using congrArg State.params hframe
  have hsb : u.sb = expandSeed s.seed := by simpa using congrArg State.sb hframe
  rw [messageSeen_initialise_expand] at hst
  refine ⟨_, exec_hash_of_absorbed ha hp hu, by simp, ?_⟩
  rw [completeCommand_dg, finaliseState_dg, absorbSelf_absorbSeedBuffer_st hparams hsb hst, digestRef_eq_finWord]

/-- Settles O43: by `exec_hash_digest` the digest is a function of the parameters, the seed and the message seen, which a quiet
message is as written. -/
theorem hashDeterminism : Obligations.HashDeterminism := by
  intro s s' hparams hseed _ ha hr hp hq ha' hr' hp' hq' hmsg
  obtain ⟨t, ht, hvalid, hdg⟩ := exec_hash_digest ha hr hp
  obtain ⟨t', ht', _, hdg'⟩ := exec_hash_digest ha' hr' hp'
  refine ⟨t, t', ht, ht', ?_, hvalid⟩
  rw [hdg, hdg', messageSeen_of_quiet hq, messageSeen_of_quiet hq', hparams, hseed, hmsg]

/-- Settles O44: with no message byte every condition on the message holds, and `exec_hash_digest` gives the digest of no
bytes. -/
theorem hashLengthZero : Obligations.HashLengthZero := by
  intro s hlen
  have hlength : s.msgLen.toInt = 0 := by rw [hlen]; rfl
  have ha : ArgsLegal s := ⟨by omega, fun hpos => by omega⟩
  obtain ⟨t, ht, hvalid, hdg⟩ := exec_hash_digest ha (fun n hn => by omega) (fun n hn => by omega)
  rw [messageSeen_of_empty hlen] at hdg
  exact ⟨t, ht, hvalid, hdg⟩

end Sys2Proof.Machine
end

section
/-! SUPPORT. Seed normalization (45_seed_normalize.md R140 to R144): the number of increments as the first good place of the cyclic
sequence of seeds, and NORM with its word and its effect. -/

namespace Sys2Proof.Machine

/-! ## The first good place of the cyclic sequence (R140, R141) -/

/-- Among `s`, `s + 1`, .. the seed `s + n` is the first that is not bad. -/
def FirstGoodAt (b : Config.BadSeeds) (s : Word32) (n : Nat) : Prop :=
  s + BitVec.ofNat 32 n ∉ b.members ∧ ∀ m, m < n → s + BitVec.ofNat 32 m ∈ b.members

theorem isBadSeed_iff (b : Config.BadSeeds) (s : Word32) : isBadSeed b s = true ↔ s ∈ b.members :=
  List.contains_iff_mem

/-- The sequence from `s` meets the seed outside of BAD_SEEDS (R6). -/
theorem add_distance_to_good_not_mem (b : Config.BadSeeds) (s : Word32) :
    s + BitVec.ofNat 32 (b.good - s).toNat ∉ b.members := by
  rw [BitVec.ofNat_toNat, BitVec.setWidth_eq, add_sub_cancel]
  exact b.outside

/-- The sequence from `s` does not stay among the bad seeds, so a first such place exists (R141). -/
theorem exists_firstGoodAt (b : Config.BadSeeds) (s : Word32) : ∃ n, FirstGoodAt b s n := by
  have hgood : ∃ n, s + BitVec.ofNat 32 n ∉ b.members :=
    ⟨(b.good - s).toNat, add_distance_to_good_not_mem b s⟩
  exact ⟨Nat.find hgood, Nat.find_spec hgood, fun m hm => not_not.mp (Nat.find_min hgood hm)⟩

theorem FirstGoodAt.le_of_not_mem {b : Config.BadSeeds} {s : Word32} {n m : Nat} (h : FirstGoodAt b s n)
    (hm : s + BitVec.ofNat 32 m ∉ b.members) : n ≤ m :=
  not_lt.mp fun hlt => hm (h.2 m hlt)

/-- The first good place lies within one turn of the cycle: the seed outside of BAD_SEEDS is met by then. -/
theorem FirstGoodAt.lt_size {b : Config.BadSeeds} {s : Word32} {n : Nat} (h : FirstGoodAt b s n) : n < 2 ^ 32 :=
  (h.le_of_not_mem (add_distance_to_good_not_mem b s)).trans_lt (b.good - s).isLt

/-- Within one turn of the cycle no seed comes twice. -/
theorem nodup_seedsFrom (s : Word32) {n : Nat} (hn : n ≤ 2 ^ 32) :
    ((List.range n).map fun m => s + BitVec.ofNat 32 m).Nodup := by
  refine (List.nodup_map_iff_inj_on List.nodup_range).mpr fun i hi j hj heq => ?_
  have hmod := congrArg BitVec.toNat ((BitVec.add_right_inj s).mp heq)
  rw [List.mem_range] at hi hj
  rwa [BitVec.toNat_ofNat, BitVec.toNat_ofNat, Nat.mod_eq_of_lt (by omega), Nat.mod_eq_of_lt (by omega)] at hmod

/-- The seeds passed over are bad and distinct, so they are no more than BAD_SEEDS has members (R141). -/
theorem FirstGoodAt.le_length {b : Config.BadSeeds} {s : Word32} {n : Nat} (h : FirstGoodAt b s n) :
    n ≤ b.members.length := by
  have hbad : ((List.range n).map fun m => s + BitVec.ofNat 32 m) ⊆ b.members := by
    intro x hx
    obtain ⟨m, hm, rfl⟩ := List.mem_map.mp hx
    exact h.2 m (List.mem_range.mp hm)
  simpa using ((nodup_seedsFrom s h.lt_size.le).subperm hbad).length_le

/-! ## `normalize` (R140) -/

theorem seed_add_succ (s : Word32) (m : Nat) : s + BitVec.ofNat 32 (m + 1) = s + 1 + BitVec.ofNat 32 m := by
  rw [BitVec.ofNat_add, BitVec.add_comm (BitVec.ofNat 32 m), ← BitVec.add_assoc]
  rfl

/-- After a bad seed the first good place is one place nearer. -/
theorem FirstGoodAt.succ {b : Config.BadSeeds} {s : Word32} {n : Nat} (h : FirstGoodAt b s (n + 1)) :
    FirstGoodAt b (s + 1) n :=
  ⟨seed_add_succ s n ▸ h.1, fun m hm => seed_add_succ s m ▸ h.2 (m + 1) (by omega)⟩

/-- With a bound that reaches the first good place, the loop stops there. -/
theorem normalizeLoop_eq {b : Config.BadSeeds} {k : Nat} :
    ∀ {s : Word32} {n : Nat}, FirstGoodAt b s n → n ≤ k → normalizeLoop b k s = s + BitVec.ofNat 32 n := by
  induction k with
  | zero =>
    intro s n _ hn
    obtain rfl : n = 0 := by omega
    exact (BitVec.add_zero s).symm
  | succ k ih =>
    intro s n h hn
    cases n with
    | zero =>
      have hs : s + BitVec.ofNat 32 0 = s := BitVec.add_zero s
      have hgood : ¬ isBadSeed b s = true := by rw [isBadSeed_iff, ← hs]; exact h.1
      rw [normalizeLoop, if_neg hgood, hs]
    | succ n =>
      have hbad : isBadSeed b s = true := (isBadSeed_iff b s).mpr (by simpa using h.2 0 n.succ_pos)
      rw [normalizeLoop, if_pos hbad, ih h.succ (by omega), seed_add_succ]

/-- `normalize` makes as many increments as the first good place says: its bound is never short (R141). -/
theorem normalize_eq {b : Config.BadSeeds} {s : Word32} {n : Nat} (h : FirstGoodAt b s n) :
    normalize b s = s + BitVec.ofNat 32 n :=
  normalizeLoop_eq h h.le_length

/-! ## The laws of normalization (R144) -/

theorem normalize_not_mem (b : Config.BadSeeds) (s : Word32) : normalize b s ∉ b.members := by
  obtain ⟨n, h⟩ := exists_firstGoodAt b s
  exact normalize_eq h ▸ h.1

theorem normalize_of_not_mem {b : Config.BadSeeds} {s : Word32} (h : s ∉ b.members) : normalize b s = s := by
  have hfirst : FirstGoodAt b s 0 := ⟨by simpa using h, by simp⟩
  simpa using normalize_eq hfirst

/-- Settles O46: a result is not bad, and a seed that is not bad stays, so a second normalization changes nothing; minimality is
that of the first good place. -/
theorem normalizationLaws : Obligations.NormalizationLaws := by
  intro b s
  refine ⟨normalize_of_not_mem (normalize_not_mem b s), normalize_not_mem b s, normalize_of_not_mem, fun m hm => ?_⟩
  obtain ⟨n, h⟩ := exists_firstGoodAt b s
  exact ⟨n, h.le_of_not_mem hm, normalize_eq h⟩

/-! ## NORM (R142) -/

theorem decode_nine : decode 0x00000009 = .ok .norm := by
  rw [decode_formatN (by decide) (by decide), if_neg (by decide)]
  rfl

/-- NORM normalizes SEED and completes; the rest is kept. -/
theorem exec_norm (s : State) :
    exec .norm s = .next
      { s with
        seed := normalize s.params.badSeeds s.seed
        status := doneStatus s.status } := rfl

/-- The first good places of R142's example. -/
theorem firstGoodAt_bs1 {b : Config.BadSeeds} (h : b.members = bs1Members) :
    FirstGoodAt b 5 3 ∧ FirstGoodAt b 0xFFFFFFFF 2 ∧ FirstGoodAt b 4 0 := by
  unfold FirstGoodAt
  rw [h]
  decide

/-- Settles O45: NORM's effect is `exec_norm`, its new seed that of `normalize_eq` at the first good place, whose bounds are
`FirstGoodAt.le_length` and `FirstGoodAt.lt_size`; the example's places are `firstGoodAt_bs1`. -/
theorem normCompletes : Obligations.NormCompletes := by
  refine ⟨decode_nine, fun c hopc hrsv => decode_formatN_reserved (by omega) (by omega) hrsv, fun s => ?_, fun s hbs1 => ?_⟩
  · obtain ⟨n, h⟩ := exists_firstGoodAt s.params.badSeeds s.seed
    refine ⟨_, n, exec_norm s, rfl, normalize_eq h, h.le_length, h.lt_size, normalize_not_mem _ _, h.2⟩
  · obtain ⟨hfive, hmax, hfour⟩ := firstGoodAt_bs1 hbs1
    refine ⟨_, exec_norm s, fun hs => ?_, fun hs => ?_, fun hs => ?_⟩
    · simpa [hs] using normalize_eq hfive
    · simpa [hs] using normalize_eq hmax
    · simpa [hs] using normalize_eq hfour

end Sys2Proof.Machine
end

section
/-! SUPPORT. Precise errors (60_exceptions.md R146 to R154): the three ways a command can end, and what an error leaves. -/

namespace Sys2Proof.Machine

/-- A command ends in one of three ways: it completes without an error, it raises an error on the state it began from, or it raises
BUS_ERROR on what a message pass has made of that state (R89, R153, R154). -/
theorem exec_ends {i : Instr} {s t : State} (h : exec i s = .next t) :
    (∃ u, t = completeCommand u) ∨ (∃ e, t = raiseError e s) ∨ (∃ u, t = raiseBusError u) := by
  cases i with
  | nop | init | seedx | norm => cases h; exact .inl ⟨_, rfl⟩
  | mix a =>
    obtain ⟨_, hraise⟩ | ⟨_, _, _, hdone⟩ | ⟨_, _, _, hraise⟩ := execMix_next h
    · exact .inr (.inl ⟨_, hraise⟩)
    · exact .inl ⟨_, hdone⟩
    · exact .inr (.inl ⟨_, hraise⟩)
  | absm =>
    obtain ⟨_, hraise⟩ | ⟨_, _, hraise⟩ | ⟨_, _, _, ⟨u, _, hbus⟩ | ⟨u, _, hdone⟩⟩ := execAbsm_next h
    · exact .inr (.inl ⟨_, hraise⟩)
    · exact .inr (.inl ⟨_, hraise⟩)
    · exact .inr (.inr ⟨_, hbus⟩)
    · exact .inl ⟨_, hdone⟩
  | abss =>
    obtain ⟨_, hraise⟩ | ⟨_, _, hraise⟩ | ⟨_, _, hdone⟩ := execAbss_next h
    · exact .inr (.inl ⟨_, hraise⟩)
    · exact .inr (.inl ⟨_, hraise⟩)
    · exact .inl ⟨_, hdone⟩
  | absx =>
    obtain ⟨_, hraise⟩ | ⟨_, hdone⟩ := execAbsx_next h
    · exact .inr (.inl ⟨_, hraise⟩)
    · exact .inl ⟨_, hdone⟩
  | final =>
    obtain ⟨_, hraise⟩ | ⟨_, hdone⟩ := execFinal_next h
    · exact .inr (.inl ⟨_, hraise⟩)
    · exact .inl ⟨_, hdone⟩
  | hash =>
    obtain ⟨_, hraise⟩ | ⟨_, _, ⟨u, _, hbus⟩ | ⟨u, _, hdone⟩⟩ := execHash_next h
    · exact .inr (.inl ⟨_, hraise⟩)
    · exact .inr (.inr ⟨_, hbus⟩)
    · exact .inl ⟨_, hdone⟩

/-- Settles O49: of the three ends, completion leaves ERR clear and BUS_ERROR has the code 6, which leaves an error raised on the old
state; `presentCommand_of_error` is the case of a word that does not decode. -/
theorem preciseErrors : Obligations.PreciseErrors := by
  refine ⟨fun i s t h herr hcode => ?_, fun _ _ s h => presentCommand_of_error h s⟩
  obtain ⟨u, rfl⟩ | ⟨e, rfl⟩ | ⟨u, rfl⟩ := exec_ends h
  · cases herr
  · rfl
  · exact absurd rfl hcode

end Sys2Proof.Machine
end


section
/-! SUPPORT. The decoder and the encoder, both ways (30_encoding.md R70 to R80): each command has one word, and each word that decodes
is the word of its command. -/

namespace Sys2Proof

theorem eq_ok_of_toOption_eq_some {ε α : Type} {x : Except ε α} {a : α} (h : x.toOption = some a) : x = .ok a := by
  cases x <;> simp_all [Except.toOption]

/-- The word of a well-formed command decodes to it (R74, R80). -/
theorem decode_encode {i : Instr} (h : i.wellFormed = true) : decode (encode i) = .ok i := by
  refine eq_ok_of_toOption_eq_some ?_
  cases i with
  | nop => exact Laws.EncodeDecodes.nop h
  | init => exact Laws.EncodeDecodes.init h
  | seedx => exact Laws.EncodeDecodes.seedx h
  | mix a => exact Laws.EncodeDecodes.mix a h
  | absm => exact Laws.EncodeDecodes.absm h
  | abss => exact Laws.EncodeDecodes.abss h
  | absx => exact Laws.EncodeDecodes.absx h
  | final => exact Laws.EncodeDecodes.final h
  | hash => exact Laws.EncodeDecodes.hash h
  | norm => exact Laws.EncodeDecodes.norm h

/-- The word of MIX holds its pivot above the opcode (R72). -/
theorem encode_mix_toNat : ∀ a : BitVec 3, (encode (.mix a)).toNat = 3 + 256 * a.toNat := by decide

/-- The word of a format N command is its opcode (R71). -/
theorem encode_instrByOpcode :
    ∀ k < 10, k ≠ 3 → (encode (instrByOpcode.getD k .nop)).toNat = k ∧ (instrByOpcode.getD k .nop).wellFormed = true := by
  decide

/-- Only a word of the decoder's accepting branches decodes: that of MIX with a legal pivot, or one of format N with its reserved
field zero (R74 to R77). -/
theorem decode_ok_cases {c : Word32} {i : Instr} (h : decode c = .ok i) :
    (∃ a : BitVec 3, a.toNat ≤ 6 ∧ i = .mix a ∧ c.toNat = 3 + 256 * a.toNat) ∨
      (c.toNat < 10 ∧ c.toNat ≠ 3 ∧ i = instrByOpcode.getD c.toNat .nop) := by
  have hc := c.isLt
  by_cases hres : 10 ≤ c.toNat % 256
  · rw [decode_reservedOpcode hres] at h
    cases h
  by_cases hmix : c.toNat % 256 = 3
  · rw [decode_mixOpcode hmix] at h
    split_ifs at h with hrsv hpivot
    cases h
    refine .inl ⟨_, ?_, rfl, ?_⟩ <;> rw [BitVec.toNat_ofNat] <;> omega
  · rw [decode_formatN (by omega) hmix] at h
    split_ifs at h with hrsv
    cases h
    have hopc : c.toNat % 256 = c.toNat := by omega
    exact .inr ⟨by omega, by omega, by rw [hopc]⟩

/-- A word that decodes is the word of the well-formed command it decodes to (R74). -/
theorem encode_of_decode {c : Word32} {i : Instr} (h : decode c = .ok i) : i.wellFormed = true ∧ encode i = c := by
  obtain ⟨a, hlegal, rfl, hc⟩ | ⟨hlt, hne, rfl⟩ := decode_ok_cases h
  · exact ⟨decide_eq_true hlegal, BitVec.eq_of_toNat_eq (by rw [encode_mix_toNat, hc])⟩
  · obtain ⟨hword, hwf⟩ := encode_instrByOpcode c.toNat hlt hne
    exact ⟨hwf, BitVec.eq_of_toNat_eq hword⟩

/-- Settles O3: `decode_encode` and `encode_of_decode`. -/
theorem decodeEncodeAgree : Obligations.DecodeEncodeAgree :=
  ⟨fun _ => decode_encode, fun _ _ => encode_of_decode⟩

/-- Settles O1: each word of the table is the encoding of its command, which decodes to it. -/
theorem commandWordsDecode : Obligations.CommandWordsDecode :=
  ⟨decode_encode (i := .nop) rfl, decode_encode (i := .init) rfl, decode_encode (i := .seedx) rfl,
    decode_encode (i := .mix 0) rfl, decode_encode (i := .mix 1) rfl, decode_encode (i := .mix 2) rfl,
    decode_encode (i := .mix 3) rfl, decode_encode (i := .mix 4) rfl, decode_encode (i := .mix 5) rfl,
    decode_encode (i := .mix 6) rfl, decode_encode (i := .absm) rfl, decode_encode (i := .abss) rfl,
    decode_encode (i := .absx) rfl, decode_encode (i := .final) rfl, decode_encode (i := .hash) rfl,
    decode_encode (i := .norm) rfl⟩

end Sys2Proof
end

section
/-! SUPPORT. The commands as rules (R88, R152): for each way a command can end, the conditions under which it ends that way; what the
three passes leave; and what each command writes. -/

namespace Sys2Proof.Machine

/-! ## What the passes leave (R112) -/

theorem messageInvalid_eq_true_iff (s : State) : messageInvalid s = true ↔ ¬ ArgsLegal s := by
  rw [← messageInvalid_eq_false_iff, Bool.not_eq_false]

theorem messageNotIdempotent_eq_true_iff (s : State) : messageNotIdempotent s = true ↔ ¬ MessagePlain s := by
  rw [← messageNotIdempotent_eq_false_iff, Bool.not_eq_false]

/-- The message pass writes ST and hidden registers, whether it ends or raises (R122). -/
theorem absorbMessage_frame {s u : State} (h : absorbMessage s = .ok u ∨ absorbMessage s = .error u) :
    u = { s with st := u.st, pass := u.pass, draws := s.draws + msgCount s } := by
  obtain ⟨x, _, heq⟩ | ⟨x, _, heq⟩ := absorbMessage_cases s <;>
  · rw [heq] at h
    obtain h | h := h <;> cases h
    rfl

/-- The pass over the seed buffer writes ST and the pass registers (R124). -/
theorem absorbSeedBuffer_frame (s : State) :
    absorbSeedBuffer s = { s with st := (absorbSeedBuffer s).st, pass := (absorbSeedBuffer s).pass } := by
  obtain ⟨x, _, heq⟩ := absorbSeedBuffer_eq s
  rw [heq]
  rfl

/-- The pass over the State's own image writes ST and the pass registers, and SNAP takes the State (R126). -/
theorem absorbSelf_frame (s : State) :
    absorbSelf s = { s with st := (absorbSelf s).st, pass := (absorbSelf s).pass, snap := s.st } := by
  obtain ⟨x, _, heq⟩ := absorbSelf_eq s
  rw [heq]
  rfl

/-! ## When the message pass raises (R128, R151) -/

theorem readBytes_isSome {d : Nat → Option Byte} {a n : Nat} {bs : List Byte} (h : readBytes d a n = some bs) :
    ∀ k, a ≤ k → k < a + n → (d k).isSome = true := by
  induction n generalizing a bs with
  | zero => intro k _ _; omega
  | succ n ih =>
    intro k hlo hhi
    rw [readBytes] at h
    split at h
    · cases h
    · rename_i b hb
      split at h
      · cases h
      · rename_i bs' hbs'
        obtain rfl | hne := Nat.eq_or_lt_of_le hlo
        · rw [hb]; rfl
        · exact ih hbs' k hne (by omega)

/-- A word phase that ends has read every byte of its data words. -/
theorem wordPhase_isSome {d : Nat → Option Byte} {n : Nat} {x y : Pipe} (h : wordPhase d n x = .ok y) :
    ∀ k, k < 8 * n → (d k).isSome = true := by
  induction n generalizing y with
  | zero => intro k _; omega
  | succ n ih =>
    intro k hk
    rw [wordPhase] at h
    split at h
    · cases h
    · rename_i z hz
      by_cases hlt : k < 8 * n
      · exact ih hz k hlt
      · rw [wordStep] at h
        split at h
        · cases h
        · rename_i bs hbs
          exact readBytes_isSome hbs k (by omega) (by omega)

/-- A byte phase that ends has read every one of its bytes. -/
theorem bytePhase_isSome {d : Nat → Option Byte} {start n : Nat} {x y : Pipe} (h : bytePhase d start n x = .ok y) :
    ∀ k, start ≤ k → k < start + n → (d k).isSome = true := by
  induction n generalizing y with
  | zero => intro k _ _; omega
  | succ n ih =>
    intro k hlo hhi
    rw [bytePhase] at h
    split at h
    · cases h
    · rename_i z hz
      by_cases hlt : k < start + n
      · exact ih hz k hlo hlt
      · obtain rfl : k = start + n := by omega
        rw [byteStep] at h
        split at h
        · cases h
        · rename_i b hb
          rw [hb]; rfl

/-- A pass that ends has read every byte of its data. -/
theorem absorb_isSome {p : Config.Params} {d : Nat → Option Byte} {len : Nat} {st : Words} {x : Pipe}
    (h : absorb p d len st = .ok x) : ∀ k, k < len → (d k).isSome = true := by
  intro k hk
  rw [absorb] at h
  split at h
  · cases h
  · rename_i y hy
    split at h
    · cases h
    · rename_i z hz
      by_cases hlt : k < 8 * (len / 8)
      · exact wordPhase_isSome hy k hlt
      · exact bytePhase_isSome hz k (by omega) (by omega)

/-- A message with a byte that cannot be read raises in its pass (R151). -/
theorem absorbMessage_of_unreadable {s : State} (hr : ¬ MessageReadable s) : ∃ u, absorbMessage s = .error u := by
  obtain ⟨x, hx, _⟩ | ⟨x, _, heq⟩ := absorbMessage_cases s
  · exact absurd (fun n hn => messageByte_isSome s n ▸ absorb_isSome hx n hn) hr
  · exact ⟨_, heq⟩

/-! ## MIX (R107) -/

section
variable {s : State}

theorem exec_mix_of_valid {a : BitVec 3} {p : Fin 7} (hp : mixPivot a = some p) (hv : s.status.stateValid = true) :
    exec (.mix a) s = .next (completeCommand { s with st := mix p s.st }) := by
  simp only [exec, execMix, hp, hv, if_true]

theorem exec_mix_of_not_valid {a : BitVec 3} (ha : a ≠ 7) (hv : s.status.stateValid = false) :
    exec (.mix a) s = .next (raiseError .stateNotValid s) := by
  obtain ⟨p, hp⟩ := Option.ne_none_iff_exists'.mp (mt (mixPivot_eq_none_iff a).mp ha)
  simp only [exec, execMix, hp, hv, Bool.false_eq_true, if_false]

/-! ## ABSM (R122) -/

theorem exec_absm_of_not_valid (hv : s.status.stateValid = false) :
    exec .absm s = .next (raiseError .stateNotValid s) := by
  simp only [exec, execAbsm, hv, if_true]

theorem exec_absm_of_illegal (hv : s.status.stateValid = true) (ha : ¬ ArgsLegal s) :
    exec .absm s = .next (raiseError .invalidArgument s) := by
  simp only [exec, execAbsm, hv, (messageInvalid_eq_true_iff s).mpr ha, Bool.true_eq_false, if_false, if_true]

theorem exec_absm_of_not_plain (hv : s.status.stateValid = true) (ha : ArgsLegal s) (hp : ¬ MessagePlain s) :
    exec .absm s = .refused .messageNotIdempotent := by
  simp only [exec, execAbsm, hv, (messageInvalid_eq_false_iff s).mpr ha, (messageNotIdempotent_eq_true_iff s).mpr hp,
    Bool.true_eq_false, Bool.false_eq_true, if_false, if_true]

theorem exec_absm_of_absorbed {u : State} (hv : s.status.stateValid = true) (ha : ArgsLegal s) (hp : MessagePlain s)
    (hu : absorbMessage s = .ok u) : exec .absm s = .next (completeCommand u) := by
  simp only [exec, execAbsm, hv, (messageInvalid_eq_false_iff s).mpr ha, (messageNotIdempotent_eq_false_iff s).mpr hp, hu,
    Bool.true_eq_false, Bool.false_eq_true, if_false]

theorem exec_absm_of_failed {u : State} (hv : s.status.stateValid = true) (ha : ArgsLegal s) (hp : MessagePlain s)
    (hu : absorbMessage s = .error u) : exec .absm s = .next (raiseBusError u) := by
  simp only [exec, execAbsm, hv, (messageInvalid_eq_false_iff s).mpr ha, (messageNotIdempotent_eq_false_iff s).mpr hp, hu,
    Bool.true_eq_false, Bool.false_eq_true, if_false]

/-! ## ABSS and ABSX (R124, R126) -/

theorem exec_abss_of_not_valid (hv : s.status.stateValid = false) :
    exec .abss s = .next (raiseError .stateNotValid s) := by
  simp only [exec, execAbss, hv, if_true]

theorem exec_abss_of_no_seedbuf (hv : s.status.stateValid = true) (hb : s.status.seedbufValid = false) :
    exec .abss s = .next (raiseError .seedbufNotValid s) := by
  simp only [exec, execAbss, hv, hb, Bool.true_eq_false, if_false, if_true]

theorem exec_abss_of_valid (hv : s.status.stateValid = true) (hb : s.status.seedbufValid = true) :
    exec .abss s = .next (completeCommand (absorbSeedBuffer s)) := by
  simp only [exec, execAbss, hv, hb, Bool.true_eq_false, if_false]

theorem exec_absx_of_not_valid (hv : s.status.stateValid = false) :
    exec .absx s = .next (raiseError .stateNotValid s) := by
  simp only [exec, execAbsx, hv, if_true]

theorem exec_absx_of_valid (hv : s.status.stateValid = true) :
    exec .absx s = .next (completeCommand (absorbSelf s)) := by
  simp only [exec, execAbsx, hv, Bool.true_eq_false, if_false]

/-! ## HASH (R134) -/

theorem exec_hash_of_illegal (ha : ¬ ArgsLegal s) : exec .hash s = .next (raiseError .invalidArgument s) := by
  simp only [exec, execHash, (messageInvalid_eq_true_iff s).mpr ha, if_true]

theorem exec_hash_of_not_plain (ha : ArgsLegal s) (hp : ¬ MessagePlain s) :
    exec .hash s = .refused .messageNotIdempotent := by
  simp only [exec, execHash, (messageInvalid_eq_false_iff s).mpr ha, (messageNotIdempotent_eq_true_iff s).mpr hp,
    Bool.false_eq_true, if_false, if_true]

theorem exec_hash_of_failed {u : State} (ha : ArgsLegal s) (hp : MessagePlain s)
    (hu : absorbMessage (initialiseState (expandSeedBuffer s)) = .error u) :
    exec .hash s = .next (raiseBusError (dropSeedBuffer u)) := by
  simp only [exec, execHash, (messageInvalid_eq_false_iff s).mpr ha, (messageNotIdempotent_eq_false_iff s).mpr hp, hu,
    Bool.false_eq_true, if_false]

end

/-! ## What each command writes (R20, R24 to R26, R43) -/

/-- The state `s` with the fields that the command `i` may write taken from `t`. -/
def withWrites (i : Instr) (s t : State) : State :=
  match i with
  | .nop => { s with status := t.status }
  | .init => { s with st := t.st, dg := t.dg, status := t.status }
  | .seedx => { s with sb := t.sb, status := t.status }
  | .mix _ => { s with st := t.st, status := t.status }
  | .absm => { s with st := t.st, pass := t.pass, draws := t.draws, status := t.status }
  | .abss => { s with st := t.st, pass := t.pass, status := t.status }
  | .absx => { s with st := t.st, pass := t.pass, snap := t.snap, status := t.status }
  | .final => { s with dg := t.dg, status := t.status }
  | .hash =>
    { s with st := t.st, sb := t.sb, dg := t.dg, pass := t.pass, snap := t.snap, draws := t.draws, status := t.status }
  | .norm => { s with seed := t.seed, status := t.status }

/-- A command writes nothing but its own fields. -/
theorem exec_frame {i : Instr} {s t : State} (h : exec i s = .next t) : t = withWrites i s t := by
  cases i with
  | nop | init | seedx | norm => cases h; rfl
  | mix a => obtain ⟨_, rfl⟩ | ⟨_, _, _, rfl⟩ | ⟨_, _, _, rfl⟩ := execMix_next h <;> rfl
  | absm =>
    obtain ⟨_, rfl⟩ | ⟨_, _, rfl⟩ | ⟨_, _, _, ⟨u, hu, rfl⟩ | ⟨u, hu, rfl⟩⟩ := execAbsm_next h
    · rfl
    · rfl
    · rw [absorbMessage_frame (.inr hu)]; rfl
    · rw [absorbMessage_frame (.inl hu)]; rfl
  | abss =>
    obtain ⟨_, rfl⟩ | ⟨_, _, rfl⟩ | ⟨_, _, rfl⟩ := execAbss_next h
    · rfl
    · rfl
    · rw [absorbSeedBuffer_frame]; rfl
  | absx =>
    obtain ⟨_, rfl⟩ | ⟨_, rfl⟩ := execAbsx_next h
    · rfl
    · rw [absorbSelf_frame]; rfl
  | final => obtain ⟨_, rfl⟩ | ⟨_, rfl⟩ := execFinal_next h <;> rfl
  | hash =>
    obtain ⟨_, rfl⟩ | ⟨_, _, ⟨u, hu, rfl⟩ | ⟨u, hu, rfl⟩⟩ := execHash_next h
    · rfl
    · rw [absorbMessage_frame (.inr hu)]; rfl
    · have hself := absorbSelf_frame (absorbSeedBuffer u)
      have hseed := absorbSeedBuffer_frame u
      generalize absorbSelf (absorbSeedBuffer u) = y at hself ⊢
      generalize absorbSeedBuffer u = x at hself hseed
      rw [hself, hseed, absorbMessage_frame (.inl hu)]
      rfl

/-- What no command writes (R51, R86). -/
theorem exec_kept {i : Instr} {s t : State} (h : exec i s = .next t) :
    t.mem = s.mem ∧ t.params = s.params ∧ t.msgLen = s.msgLen ∧ t.msgAddr = s.msgAddr ∧ t.cur = s.cur ∧
      t.raced = s.raced ∧ t.hostRead = s.hostRead ∧ t.inputs = s.inputs := by
  rw [exec_frame h]
  cases i <;> exact ⟨rfl, rfl, rfl, rfl, rfl, rfl, rfl, rfl⟩

end Sys2Proof.Machine
end

section
/-! SUPPORT. What the engine reads (20_memory.md R51): a pass reads neither CUR nor STATUS and no memory but the message, so that with
any other memory that holds the same message a command does the same. -/

namespace Sys2Proof.Machine

/-! ## Passes and their surroundings (R112) -/

/-- The state with its message memory, CUR and STATUS changed, none of which a pass writes. -/
def State.withContext (s : State) (m : Memory → Memory) (c : Word32 → Word32) (f : Status → Status) : State :=
  { s with mem := m s.mem, cur := c s.cur, status := f s.status }

/-- The state with another message memory. -/
abbrev State.withMem (s : State) (m : Memory) : State := s.withContext (fun _ => m) id id

/-- Another memory that holds the message of `s`. -/
def SameMessage (s : State) (m : Memory) : Prop :=
  ∀ n, n < msgCount s → Memory.read m (s.msgAddr.toNat + n) = Memory.read s.mem (s.msgAddr.toNat + n)

theorem SameMessage.refl (s : State) : SameMessage s s.mem := fun _ _ => rfl

section
variable {s u : State} {m : Memory → Memory} {c : Word32 → Word32} {f : Status → Status}

theorem messageByte_withContext (hm : SameMessage s (m s.mem)) {n : Nat} (hn : n < msgCount s) :
    messageByte (s.withContext m c f) n = messageByte s n := by
  have hraced : ∀ a, messageRaced (s.withContext m c f) a = messageRaced s a := fun _ => rfl
  have hread : Memory.read (s.withContext m c f).mem ((s.withContext m c f).msgAddr.toNat + n) =
      Memory.read s.mem (s.msgAddr.toNat + n) := hm n hn
  rw [messageByte, messageByte, hraced, hread]
  rfl

/-- The message pass reads memory at the message only, and neither CUR nor STATUS. -/
theorem absorb_message_withContext (hm : SameMessage s (m s.mem)) :
    absorb (s.withContext m c f).params (messageByte (s.withContext m c f)) (msgCount (s.withContext m c f))
        (s.withContext m c f).st =
      absorb s.params (messageByte s) (msgCount s) s.st :=
  absorb_congr s.params s.st fun _ => messageByte_withContext hm

theorem absorbMessage_withContext_ok (hm : SameMessage s (m s.mem)) (hu : absorbMessage s = .ok u) :
    absorbMessage (s.withContext m c f) = .ok (u.withContext m c f) := by
  obtain ⟨x, hx, heq⟩ | ⟨x, _, heq⟩ := absorbMessage_cases s <;> rw [heq] at hu <;> cases hu
  simp only [absorbMessage, absorb_message_withContext hm, hx]
  rfl

theorem absorbMessage_withContext_error (hm : SameMessage s (m s.mem)) (hu : absorbMessage s = .error u) :
    absorbMessage (s.withContext m c f) = .error (u.withContext m c f) := by
  obtain ⟨x, _, heq⟩ | ⟨x, hx, heq⟩ := absorbMessage_cases s <;> rw [heq] at hu <;> cases hu
  simp only [absorbMessage, absorb_message_withContext hm, hx]
  rfl

theorem absorbSeedBuffer_withContext :
    absorbSeedBuffer (s.withContext m c f) = (absorbSeedBuffer s).withContext m c f := by
  obtain ⟨x, hx, heq⟩ := absorbSeedBuffer_eq s
  obtain ⟨y, hy, heq'⟩ := absorbSeedBuffer_eq (s.withContext m c f)
  obtain rfl : x = y := Except.ok.inj (hx.symm.trans hy)
  rw [heq, heq']
  rfl

theorem absorbSelf_withContext : absorbSelf (s.withContext m c f) = (absorbSelf s).withContext m c f := by
  obtain ⟨x, hx, heq⟩ := absorbSelf_eq s
  obtain ⟨y, hy, heq'⟩ := absorbSelf_eq (s.withContext m c f)
  obtain rfl : x = y := Except.ok.inj (hx.symm.trans hy)
  rw [heq, heq']
  rfl

end

/-! ## Commands and message memory (R51) -/

section
variable {s : State} {m : Memory}

/-- Every command does the same with another memory that holds the message, and leaves that memory in place. -/
theorem exec_withMem {i : Instr} {t : State} (hm : SameMessage s m) (h : exec i s = .next t) :
    exec i (s.withMem m) = .next (t.withMem m) := by
  cases i with
  | nop | init | seedx | norm => cases h; rfl
  | mix a =>
    obtain ⟨hp, rfl⟩ | ⟨p, hp, hv, rfl⟩ | ⟨p, hp, hv, rfl⟩ := execMix_next h
    · obtain rfl := (mixPivot_eq_none_iff a).mp hp
      exact exec_mix_seven _
    · exact exec_mix_of_valid hp hv
    · exact exec_mix_of_not_valid (fun ha => by rw [(mixPivot_eq_none_iff a).mpr ha] at hp; cases hp) hv
  | absm =>
    obtain ⟨hv, rfl⟩ | ⟨hv, hi, rfl⟩ | ⟨hv, hi, hp, ⟨u, hu, rfl⟩ | ⟨u, hu, rfl⟩⟩ := execAbsm_next h
    · exact exec_absm_of_not_valid hv
    · exact exec_absm_of_illegal (s := s.withMem m) hv ((messageInvalid_eq_true_iff s).mp hi)
    · exact exec_absm_of_failed (s := s.withMem m) hv ((messageInvalid_eq_false_iff s).mp hi)
        ((messageNotIdempotent_eq_false_iff s).mp hp) (absorbMessage_withContext_error hm hu)
    · exact exec_absm_of_absorbed (s := s.withMem m) hv ((messageInvalid_eq_false_iff s).mp hi)
        ((messageNotIdempotent_eq_false_iff s).mp hp) (absorbMessage_withContext_ok hm hu)
  | abss =>
    obtain ⟨hv, rfl⟩ | ⟨hv, hb, rfl⟩ | ⟨hv, hb, rfl⟩ := execAbss_next h
    · exact exec_abss_of_not_valid hv
    · exact exec_abss_of_no_seedbuf hv hb
    · rw [exec_abss_of_valid (s := s.withMem m) hv hb, absorbSeedBuffer_withContext]
      rfl
  | absx =>
    obtain ⟨hv, rfl⟩ | ⟨hv, rfl⟩ := execAbsx_next h
    · exact exec_absx_of_not_valid hv
    · rw [exec_absx_of_valid (s := s.withMem m) hv, absorbSelf_withContext]
      rfl
  | final =>
    obtain ⟨hv, rfl⟩ | ⟨hv, rfl⟩ := execFinal_next h
    · exact exec_final_of_not_valid hv
    · exact exec_final_of_valid hv
  | hash =>
    obtain ⟨hi, rfl⟩ | ⟨hi, hp, ⟨u, hu, rfl⟩ | ⟨u, hu, rfl⟩⟩ := execHash_next h
    · exact exec_hash_of_illegal (s := s.withMem m) ((messageInvalid_eq_true_iff s).mp hi)
    · exact exec_hash_of_failed (s := s.withMem m) ((messageInvalid_eq_false_iff s).mp hi)
        ((messageNotIdempotent_eq_false_iff s).mp hp)
        (absorbMessage_withContext_error (m := fun _ => m) (c := id) (f := id)
          (s := initialiseState (expandSeedBuffer s)) hm hu)
    · rw [exec_hash_of_absorbed (s := s.withMem m) ((messageInvalid_eq_false_iff s).mp hi)
        ((messageNotIdempotent_eq_false_iff s).mp hp)
        (absorbMessage_withContext_ok (m := fun _ => m) (c := id) (f := id)
          (s := initialiseState (expandSeedBuffer s)) hm hu),
        absorbSeedBuffer_withContext, absorbSelf_withContext]
      generalize absorbSelf (absorbSeedBuffer u) = x
      rfl

end

/-- Settles O57: `exec_withMem`, with both states written out. -/
theorem engineReadsOnlyTheMessage : Obligations.EngineReadsOnlyTheMessage :=
  fun _ _ _ _ hm h => exec_withMem hm h

end Sys2Proof.Machine
end

section
/-! SUPPORT. Errors and completion (60_exceptions.md R146 to R154, 40_command_sequencing.md R91): the first error that applies, what a
BUS_ERROR leaves, refused launches, and that every accepted command completes. -/

namespace Sys2Proof.Machine

/-! ## The first error that applies (R152) -/

theorem mix_reports_first_error (s : State) (a : BitVec 3) :
    ∃ t, exec (.mix a) s = .next t ∧
      t.status.errcode = if a = 7 then 2 else if s.status.stateValid = false then 3 else 0 := by
  by_cases ha : a = 7
  · subst ha
    exact ⟨_, exec_mix_seven s, rfl⟩
  rw [if_neg ha]
  by_cases hv : s.status.stateValid = false
  · exact ⟨_, exec_mix_of_not_valid ha hv, by rw [if_pos hv]; rfl⟩
  · obtain ⟨p, hp⟩ := Option.ne_none_iff_exists'.mp (mt (mixPivot_eq_none_iff a).mp ha)
    exact ⟨_, exec_mix_of_valid hp (Bool.eq_true_of_not_eq_false hv), by rw [if_neg hv]; rfl⟩

/-- What the message pass is on a readable message and on one that is not (R151). -/
theorem absorbMessage_ends (s : State) :
    (MessageReadable s ∧ ∃ u, absorbMessage s = .ok u) ∨ (¬ MessageReadable s ∧ ∃ u, absorbMessage s = .error u) := by
  by_cases hr : MessageReadable s
  · obtain ⟨u, hu, _⟩ := absorbMessage_of_readable hr
    exact .inl ⟨hr, u, hu⟩
  · exact .inr ⟨hr, absorbMessage_of_unreadable hr⟩

theorem absm_reports_first_error {s : State} (hplain : s.status.stateValid = true → ArgsLegal s → MessagePlain s) :
    ∃ t, exec .absm s = .next t ∧
      t.status.errcode =
        if s.status.stateValid = false then 3
        else if ¬ ArgsLegal s then 5 else if ¬ MessageReadable s then 6 else 0 := by
  by_cases hv : s.status.stateValid = false
  · exact ⟨_, exec_absm_of_not_valid hv, by rw [if_pos hv]; rfl⟩
  rw [if_neg hv]
  replace hv := Bool.eq_true_of_not_eq_false hv
  by_cases ha : ArgsLegal s
  · rw [if_neg (not_not.mpr ha)]
    obtain ⟨hr, u, hu⟩ | ⟨hr, u, hu⟩ := absorbMessage_ends s
    · exact ⟨_, exec_absm_of_absorbed hv ha (hplain hv ha) hu, by rw [if_neg (not_not.mpr hr)]; rfl⟩
    · exact ⟨_, exec_absm_of_failed hv ha (hplain hv ha) hu, by rw [if_pos hr]; rfl⟩
  · exact ⟨_, exec_absm_of_illegal hv ha, by rw [if_pos ha]; rfl⟩

theorem abss_reports_first_error (s : State) :
    ∃ t, exec .abss s = .next t ∧
      t.status.errcode =
        if s.status.stateValid = false then 3 else if s.status.seedbufValid = false then 4 else 0 := by
  by_cases hv : s.status.stateValid = false
  · exact ⟨_, exec_abss_of_not_valid hv, by rw [if_pos hv]; rfl⟩
  rw [if_neg hv]
  replace hv := Bool.eq_true_of_not_eq_false hv
  by_cases hb : s.status.seedbufValid = false
  · exact ⟨_, exec_abss_of_no_seedbuf hv hb, by rw [if_pos hb]; rfl⟩
  · exact ⟨_, exec_abss_of_valid hv (Bool.eq_true_of_not_eq_false hb), by rw [if_neg hb]; rfl⟩

theorem absx_reports_first_error (s : State) :
    ∃ t, exec .absx s = .next t ∧ t.status.errcode = if s.status.stateValid = false then 3 else 0 := by
  by_cases hv : s.status.stateValid = false
  · exact ⟨_, exec_absx_of_not_valid hv, by rw [if_pos hv]; rfl⟩
  · exact ⟨_, exec_absx_of_valid (Bool.eq_true_of_not_eq_false hv), by rw [if_neg hv]; rfl⟩

theorem final_reports_first_error (s : State) :
    ∃ t, exec .final s = .next t ∧ t.status.errcode = if s.status.stateValid = false then 3 else 0 := by
  by_cases hv : s.status.stateValid = false
  · exact ⟨_, exec_final_of_not_valid hv, by rw [if_pos hv]; rfl⟩
  · exact ⟨_, exec_final_of_valid (Bool.eq_true_of_not_eq_false hv), by rw [if_neg hv]; rfl⟩

theorem hash_reports_first_error {s : State} (hplain : ArgsLegal s → MessagePlain s) :
    ∃ t, exec .hash s = .next t ∧
      t.status.errcode = if ¬ ArgsLegal s then 5 else if ¬ MessageReadable s then 6 else 0 := by
  by_cases ha : ArgsLegal s
  · rw [if_neg (not_not.mpr ha)]
    obtain ⟨(hr : MessageReadable s), u, hu⟩ | ⟨(hr : ¬ MessageReadable s), u, hu⟩ :=
      absorbMessage_ends (initialiseState (expandSeedBuffer s))
    · exact ⟨_, exec_hash_of_absorbed ha (hplain ha) hu, by rw [if_neg (not_not.mpr hr)]; rfl⟩
    · exact ⟨_, exec_hash_of_failed ha (hplain ha) hu, by rw [if_pos hr]; rfl⟩
  · exact ⟨_, exec_hash_of_illegal ha, by rw [if_pos ha]; rfl⟩

/-- Settles O48: one lemma for each command that can fail. -/
theorem firstErrorReported : Obligations.FirstErrorReported :=
  ⟨mix_reports_first_error, fun _ => absm_reports_first_error, abss_reports_first_error, absx_reports_first_error,
    final_reports_first_error, fun _ => hash_reports_first_error⟩

/-! ## Completion (R91) -/

/-- Every command has a next state, but for a launch the model refuses (R61). -/
theorem exec_has_next {i : Instr} {s : State}
    (hplain : (i = .absm ∧ s.status.stateValid = true) ∨ i = .hash → ArgsLegal s → MessagePlain s) :
    ∃ t, exec i s = .next t := by
  cases i with
  | nop | init | seedx | norm => exact ⟨_, rfl⟩
  | mix a => exact (mix_reports_first_error s a).imp fun _ h => h.1
  | absm => exact (absm_reports_first_error fun hv => hplain (.inl ⟨rfl, hv⟩)).imp fun _ h => h.1
  | abss => exact (abss_reports_first_error s).imp fun _ h => h.1
  | absx => exact (absx_reports_first_error s).imp fun _ h => h.1
  | final => exact (final_reports_first_error s).imp fun _ h => h.1
  | hash => exact (hash_reports_first_error (hplain (.inr rfl))).imp fun _ h => h.1

/-- Settles O8: a word that does not decode ends in its error; one that does has a next state (`exec_has_next`), in which its command
is complete (`exec_completes`). -/
theorem acceptedCommandsComplete : Obligations.AcceptedCommandsComplete := by
  intro s hb hplain
  obtain ⟨hidle, _⟩ | ⟨i, _, hd, heq⟩ | ⟨e, _, _, heq⟩ := engineTurn_cases s
  · rw [hb] at hidle
    cases hidle
  · obtain ⟨t, ht⟩ := exec_has_next (hplain i hd)
    obtain ⟨hbusy, hdone⟩ := exec_completes ht
    obtain ⟨_, _, _, _, _, _, _, hinputs⟩ := exec_kept ht
    exact ⟨t, heq.trans ht, hbusy, hdone, hinputs⟩
  · exact ⟨_, heq, rfl, rfl, rfl⟩

/-! ## Refused launches (R61) -/

/-- Settles O51: past the state and argument checks the launch meets the one on its memory. -/
theorem sideEffectLaunchRefused : Obligations.SideEffectLaunchRefused :=
  ⟨fun _ => exec_absm_of_not_plain, fun _ => exec_hash_of_not_plain⟩

/-! ## BUS_ERROR (R136, R154) -/

/-- ABSM ends in BUS_ERROR only where its pass raises. -/
theorem exec_absm_busError {s t : State} (h : exec .absm s = .next t) (hcode : t.status.errcode = 6) :
    ∃ u, absorbMessage s = .error u ∧ t = raiseBusError u := by
  obtain ⟨_, rfl⟩ | ⟨_, _, rfl⟩ | ⟨_, _, _, ⟨u, hu, rfl⟩ | ⟨u, _, rfl⟩⟩ := execAbsm_next h
  · cases hcode
  · cases hcode
  · exact ⟨u, hu, rfl⟩
  · cases hcode

/-- HASH ends in BUS_ERROR only where its message pass raises. -/
theorem exec_hash_busError {s t : State} (h : exec .hash s = .next t) (hcode : t.status.errcode = 6) :
    ∃ u, absorbMessage (initialiseState (expandSeedBuffer s)) = .error u ∧ t = raiseBusError (dropSeedBuffer u) := by
  obtain ⟨_, rfl⟩ | ⟨_, _, ⟨u, hu, rfl⟩ | ⟨u, _, rfl⟩⟩ := execHash_next h
  · cases hcode
  · exact ⟨u, hu, rfl⟩
  · cases hcode

/-- Settles O50: the error stands on what the message pass made of the state (`absorbMessage_frame`), whose draws are the old ones and
one for each message byte. -/
theorem busErrorEffect : Obligations.BusErrorEffect := by
  refine ⟨fun s t h hcode => ?_, fun s t h hcode => ?_⟩
  · obtain ⟨u, hu, rfl⟩ := exec_absm_busError h hcode
    rw [absorbMessage_frame (.inr hu)]
    exact ⟨⟨s.draws + msgCount s, Nat.le_add_right _ _, rfl, rfl⟩, rfl⟩
  · obtain ⟨u, hu, rfl⟩ := exec_hash_busError h hcode
    rw [absorbMessage_frame (.inr hu)]
    exact ⟨⟨s.draws + msgCount s, Nat.le_add_right _ _, rfl, rfl⟩, rfl⟩

end Sys2Proof.Machine
end

section
/-! SUPPORT. What each command leaves unchanged (10_state.md R20 to R43) and which commands touch the valid bits (R33 to R35). -/

namespace Sys2Proof.Machine

/-! ## Frames -/

section
variable {i : Instr} {s t : State}

theorem withWrites_seed (hi : i ≠ .norm) : (withWrites i s t).seed = s.seed := by
  cases i with
  | norm => exact absurd rfl hi
  | _ => rfl

theorem withWrites_sb (hseedx : i ≠ .seedx) (hhash : i ≠ .hash) : (withWrites i s t).sb = s.sb := by
  cases i with
  | seedx => exact absurd rfl hseedx
  | hash => exact absurd rfl hhash
  | _ => rfl

theorem withWrites_dg (hinit : i ≠ .init) (hfinal : i ≠ .final) (hhash : i ≠ .hash) : (withWrites i s t).dg = s.dg := by
  cases i with
  | init => exact absurd rfl hinit
  | final => exact absurd rfl hfinal
  | hash => exact absurd rfl hhash
  | _ => rfl

theorem withWrites_st (hi : i = .nop ∨ i = .seedx ∨ i = .final ∨ i = .norm) : (withWrites i s t).st = s.st := by
  obtain rfl | rfl | rfl | rfl := hi <;> rfl

theorem withWrites_snap (habsx : i ≠ .absx) (hhash : i ≠ .hash) : (withWrites i s t).snap = s.snap := by
  cases i with
  | absx => exact absurd rfl habsx
  | hash => exact absurd rfl hhash
  | _ => rfl

theorem withWrites_pass_draws
    (hi : i = .nop ∨ i = .init ∨ i = .seedx ∨ i = .final ∨ i = .norm ∨ (∃ a, i = .mix a)) :
    (withWrites i s t).pass = s.pass ∧ (withWrites i s t).draws = s.draws := by
  obtain rfl | rfl | rfl | rfl | rfl | ⟨a, rfl⟩ := hi <;> exact ⟨rfl, rfl⟩

end

/-- Settles O52: `exec_kept`, and the fields that some commands write by `exec_frame`; OVR is `exec_ovr`. -/
theorem commandFrame : Obligations.CommandFrame := by
  intro i s t h
  obtain ⟨hmem, hparams, hlen, haddr, hcur, hraced, hread, hinputs⟩ := exec_kept h
  refine ⟨fun a => by rw [hmem], hmem, hparams, hlen, haddr, hcur, hraced, hread, hinputs, exec_ovr h, ?_⟩
  rw [exec_frame h]
  exact ⟨withWrites_seed, withWrites_sb, withWrites_dg, withWrites_st, withWrites_snap, withWrites_pass_draws⟩

/-! ## The valid bits -/

/-- The three valid bits of STATUS: STATE_VALID, SEEDBUF_VALID and DIGEST_VALID (R33 to R35). -/
def Status.validBits (f : Status) : Bool × Bool × Bool := (f.stateValid, f.seedbufValid, f.digestValid)

/-- What a command does to the valid bits: it keeps them, or it sets and clears those that are its own. -/
theorem exec_validBits {i : Instr} {s t : State} (h : exec i s = .next t) :
    t.status.validBits = s.status.validBits ∨
      (i = .init ∧ t.status.validBits = (true, s.status.seedbufValid, false)) ∨
      (i = .seedx ∧ t.status.validBits = (s.status.stateValid, true, s.status.digestValid)) ∨
      (i = .absm ∧ t.status.errcode = 6 ∧ t.status.validBits = (false, s.status.seedbufValid, s.status.digestValid)) ∨
      ((i = .final ∨ i = .hash) ∧ t.status.validBits = (false, false, true)) ∨
      (i = .hash ∧ t.status.errcode = 6 ∧ t.status.validBits = (false, false, false)) := by
  cases i with
  | nop | norm => cases h; exact .inl rfl
  | init => cases h; exact .inr (.inl ⟨rfl, rfl⟩)
  | seedx => cases h; exact .inr (.inr (.inl ⟨rfl, rfl⟩))
  | mix a => obtain ⟨_, rfl⟩ | ⟨_, _, _, rfl⟩ | ⟨_, _, _, rfl⟩ := execMix_next h <;> exact .inl rfl
  | absm =>
    obtain ⟨_, rfl⟩ | ⟨_, _, rfl⟩ | ⟨_, _, _, ⟨u, hu, rfl⟩ | ⟨u, hu, rfl⟩⟩ := execAbsm_next h
    · exact .inl rfl
    · exact .inl rfl
    · refine .inr (.inr (.inr (.inl ⟨rfl, rfl, ?_⟩)))
      rw [raiseBusError_status, absorbMessage_status (.inr hu)]
      rfl
    · refine .inl ?_
      rw [completeCommand_status, absorbMessage_status (.inl hu)]
      rfl
  | abss =>
    obtain ⟨_, rfl⟩ | ⟨_, _, rfl⟩ | ⟨_, _, rfl⟩ := execAbss_next h
    · exact .inl rfl
    · exact .inl rfl
    · exact .inl (by rw [completeCommand_status, absorbSeedBuffer_status]; rfl)
  | absx =>
    obtain ⟨_, rfl⟩ | ⟨_, rfl⟩ := execAbsx_next h
    · exact .inl rfl
    · exact .inl (by rw [completeCommand_status, absorbSelf_status]; rfl)
  | final =>
    obtain ⟨_, rfl⟩ | ⟨_, rfl⟩ := execFinal_next h
    · exact .inl rfl
    · exact .inr (.inr (.inr (.inr (.inl ⟨.inl rfl, rfl⟩))))
  | hash =>
    obtain ⟨_, rfl⟩ | ⟨_, _, ⟨u, hu, rfl⟩ | ⟨u, _, rfl⟩⟩ := execHash_next h
    · exact .inl rfl
    · refine .inr (.inr (.inr (.inr (.inr ⟨rfl, rfl, ?_⟩))))
      rw [raiseBusError_status, dropSeedBuffer_status, absorbMessage_status (.inr hu)]
      rfl
    · exact .inr (.inr (.inr (.inr (.inl ⟨.inr rfl, rfl⟩))))

/-- Settles O53: read off `exec_validBits`, case by case. -/
theorem validBitDiscipline : Obligations.ValidBitDiscipline := by
  intro i s t h
  have hbits := exec_validBits h
  simp only [Status.validBits, Prod.mk.injEq] at hbits
  obtain ⟨hst, hsb, hdg⟩ | ⟨rfl, hst, hsb, hdg⟩ | ⟨rfl, hst, hsb, hdg⟩ | ⟨rfl, hcode, hst, hsb, hdg⟩ |
    ⟨rfl | rfl, hst, hsb, hdg⟩ | ⟨rfl, hcode, hst, hsb, hdg⟩ := hbits <;> simp_all

end Sys2Proof.Machine
end

section
/-! SUPPORT. The absorbing commands and HASH (43_absorption.md R122 to R129, 44_finalize_hash.md R134): their effect is the reference
absorption of their data. -/

namespace Sys2Proof.Machine

/-- A command of known STATUS effect: its frame with that STATUS written in. -/
theorem exec_frame_of_status {i : Instr} {s t : State} {f : Status} (h : exec i s = .next t) (hf : t.status = f) :
    t = withWrites i s { t with status := f } := by
  subst hf
  exact exec_frame h

theorem absorbSelf_snap (s : State) : (absorbSelf s).snap = s.st := by
  rw [absorbSelf_frame]

theorem absorbSelf_sb (s : State) : (absorbSelf s).sb = s.sb := by
  rw [absorbSelf_frame]

theorem absorbSeedBuffer_sb (s : State) : (absorbSeedBuffer s).sb = s.sb := by
  rw [absorbSeedBuffer_frame]

theorem completeCommand_status_eq (s : State) : (completeCommand s).status = doneStatus s.status := rfl

/-- ABSM of a readable message in plain memory absorbs the message seen (R122, R129). -/
theorem exec_absm_of_readable {s : State} (hv : s.status.stateValid = true) (ha : ArgsLegal s) (hr : MessageReadable s)
    (hp : MessagePlain s) :
    ∃ t, exec .absm s = .next t ∧ t.st = absorbRef s.params (messageSeen s) s.st ∧ t.status = doneStatus s.status := by
  obtain ⟨u, hu, hst, _⟩ := absorbMessage_of_readable hr
  exact ⟨_, exec_absm_of_absorbed hv ha hp hu, hst, by rw [completeCommand_status_eq, absorbMessage_status (.inl hu)]⟩

/-- Settles O33: the message pass absorbs the message seen, which a quiet message is as written. -/
theorem absmCompletes : Obligations.AbsmCompletes := by
  intro s hv ha hr hp
  obtain ⟨t, ht, hst, hstatus⟩ := exec_absm_of_readable hv ha hr hp
  exact ⟨⟨t, ht, hst, exec_frame_of_status ht hstatus⟩, messageSeen_of_quiet⟩

/-- Settles O34: the pass absorbs the seed buffer's bytes (`absorbSeedBuffer_st`). -/
theorem abssCompletes : Obligations.AbssCompletes := by
  intro s hv hb
  have ht := exec_abss_of_valid hv hb
  have hst : (completeCommand (absorbSeedBuffer s)).st = absorbRef s.params (seedBytes s.sb) s.st := absorbSeedBuffer_st s
  have hstatus : (completeCommand (absorbSeedBuffer s)).status = doneStatus s.status := by
    rw [completeCommand_status_eq, absorbSeedBuffer_status]
  generalize completeCommand (absorbSeedBuffer s) = t at ht hst hstatus
  exact ⟨t, ht, hst, exec_frame_of_status ht hstatus⟩

/-- Settles O35: the pass absorbs the image of the old State (`absorbSelf_st`), and SNAP took that State. -/
theorem absxCompletes : Obligations.AbsxCompletes := by
  intro s hv
  have ht := exec_absx_of_valid hv
  have hst : (completeCommand (absorbSelf s)).st = absorbRef s.params (image s.st) s.st := absorbSelf_st s
  have hsnap : (completeCommand (absorbSelf s)).snap = s.st := absorbSelf_snap s
  have hstatus : (completeCommand (absorbSelf s)).status = doneStatus s.status := by
    rw [completeCommand_status_eq, absorbSelf_status]
  generalize completeCommand (absorbSelf s) = t at ht hst hsnap hstatus
  refine ⟨t, ht, hst, ?_⟩
  rw [← hsnap]
  exact exec_frame_of_status ht hstatus

/-- HASH of a readable message in plain memory ends its passes in the State of R134 step 6, whose finalizer word is the digest. -/
theorem exec_hash_of_readable {s : State} (ha : ArgsLegal s) (hr : MessageReadable s) (hp : MessagePlain s) :
    ∃ t, exec .hash s = .next t ∧ t.dg = #v[digestRef s.params s.seed (messageSeen s), 0, 0, 0] ∧
      t.st = hashStateRef s.params s.seed (messageSeen s) ∧ t.sb = expandSeed s.seed ∧
      t.status = { doneStatus s.status with digestValid := true, stateValid := false, seedbufValid := false } := by
  obtain ⟨u, hu, hst, hframe⟩ := absorbMessage_of_readable (s := initialiseState (expandSeedBuffer s)) hr
  have hparams : u.params = s.params := by simpa using congrArg State.params hframe
  have hsb : u.sb = expandSeed s.seed := by simpa using congrArg State.sb hframe
  rw [messageSeen_initialise_expand] at hst
  have hend := absorbSelf_absorbSeedBuffer_st hparams hsb hst
  refine ⟨_, exec_hash_of_absorbed ha hp hu, ?_, hend, ?_, ?_⟩
  · rw [completeCommand_dg, finaliseState_dg, hend, digestRef_eq_finWord]
  · rw [completeCommand_sb, finaliseState_sb, absorbSelf_sb, absorbSeedBuffer_sb, hsb]
  · rw [completeCommand_status_eq, finaliseState_status, absorbSelf_status, absorbSeedBuffer_status,
      absorbMessage_status (.inl hu)]
    rfl

/-- Settles O41: `exec_hash_of_readable`, with the frame of HASH. -/
theorem hashCompletes : Obligations.HashCompletes := by
  intro s ha hr hp
  obtain ⟨t, ht, hdg, hst, hsb, hstatus⟩ := exec_hash_of_readable ha hr hp
  exact ⟨t, ht, hdg, hst, hsb.trans (expandSeed_eq s.seed), exec_frame_of_status ht hstatus⟩

end Sys2Proof.Machine
end

section
/-! SUPPORT. HASH and the six commands that make it up (40_command_sequencing.md R95). -/

namespace Sys2Proof.Machine

theorem decode_four : decode 0x00000004 = .ok .absm := decode_encode (i := .absm) rfl
theorem decode_five : decode 0x00000005 = .ok .abss := decode_encode (i := .abss) rfl
theorem decode_six : decode 0x00000006 = .ok .absx := decode_encode (i := .absx) rfl
theorem decode_eight : decode 0x00000008 = .ok .hash := decode_encode (i := .hash) rfl

/-- STATUS while a command runs between INIT and SEEDX and the FINAL of the sequence. -/
def sequenceStatus : Status := ⟨true, false, false, false, 0, true, true, false⟩

/-- The state whose engine runs the command word `c` inside the sequence. -/
abbrev State.running (s : State) (c : Word32) : State := s.withContext id (fun _ => c) (fun _ => sequenceStatus)

/-- The state at which HASH, issued, begins its message pass (R134 steps 2 and 3). -/
def hashStart (s : State) : State := initialiseState (expandSeedBuffer (acceptCommand 0x00000008 s))

/-- INIT and SEEDX, issued, leave what HASH begins its message pass with, but for CUR and STATUS. -/
theorem issueAll_init_seedx (s : State) :
    issueAll [0x00000001, 0x00000002] s = .next (completeCommand ((hashStart s).running 0x00000002)) := by
  simp only [issueAll, issue_init, issue_of_ok decode_two, exec_seedx]
  rfl

/-- Commands issued after one that has a next state. -/
theorem issueAll_cons {c : Word32} {cs : List Word32} {s t : State} (h : issue c s = .next t) :
    issueAll (c :: cs) s = issueAll cs t := by
  simp only [issueAll, h]

/-- Commands issued after others that have a next state. -/
theorem issueAll_append {cs cs' : List Word32} {s t : State} (h : issueAll cs s = .next t) :
    issueAll (cs ++ cs') s = issueAll cs' t := by
  induction cs generalizing s with
  | nil => cases h; rfl
  | cons c cs ih =>
    cases hc : issue c s with
    | next u => rw [List.cons_append, issueAll_cons hc, ih (issueAll_cons hc ▸ h)]
    | fault f => simp only [issueAll, hc] at h; cases h
    | refused r => simp only [issueAll, hc] at h; cases h

section
variable {s u : State} {c : Word32}

/-- The next command of the sequence is accepted, where no byte has raced. -/
theorem acceptCommand_running (hraced : s.raced = []) (c' : Word32) :
    acceptCommand c' (completeCommand (s.running c)) = s.running c' := by
  cases s
  cases hraced
  rfl

theorem issue_absm_running_ok (hraced : s.raced = []) (ha : ArgsLegal s) (hp : MessagePlain s)
    (hu : absorbMessage s = .ok u) :
    issue 0x00000004 (completeCommand (s.running c)) = .next (completeCommand (u.running 0x00000004)) := by
  rw [issue_of_ok decode_four, acceptCommand_running hraced]
  exact exec_absm_of_absorbed (s := s.running 0x00000004) rfl ha hp (absorbMessage_withContext_ok (SameMessage.refl s) hu)

theorem issue_absm_running_error (hraced : s.raced = []) (ha : ArgsLegal s) (hp : MessagePlain s)
    (hu : absorbMessage s = .error u) :
    issue 0x00000004 (completeCommand (s.running c)) = .next (raiseBusError (u.running 0x00000004)) := by
  rw [issue_of_ok decode_four, acceptCommand_running hraced]
  exact exec_absm_of_failed (s := s.running 0x00000004) rfl ha hp
    (absorbMessage_withContext_error (SameMessage.refl s) hu)

theorem issue_absm_running_illegal (hraced : s.raced = []) (ha : ¬ ArgsLegal s) :
    issue 0x00000004 (completeCommand (s.running c)) = .next (raiseError .invalidArgument (s.running 0x00000004)) := by
  rw [issue_of_ok decode_four, acceptCommand_running hraced]
  exact exec_absm_of_illegal (s := s.running 0x00000004) rfl ha

theorem issue_abss_running (hraced : s.raced = []) :
    issue 0x00000005 (completeCommand (s.running c)) =
      .next (completeCommand ((absorbSeedBuffer s).running 0x00000005)) := by
  rw [issue_of_ok decode_five, acceptCommand_running hraced, exec_abss_of_valid rfl rfl, absorbSeedBuffer_withContext]

theorem issue_absx_running (hraced : s.raced = []) :
    issue 0x00000006 (completeCommand (s.running c)) = .next (completeCommand ((absorbSelf s).running 0x00000006)) := by
  rw [issue_of_ok decode_six, acceptCommand_running hraced, exec_absx_of_valid rfl, absorbSelf_withContext]

/-- FINAL ends the sequence as HASH ends, but for CUR. -/
theorem issue_final_running (hraced : s.raced = []) (hovr : s.status.ovr = false) :
    issue 0x00000007 (completeCommand (s.running c)) =
      .next { completeCommand (finaliseState s) with cur := 0x00000007 } := by
  rw [issue_of_ok decode_seven, acceptCommand_running hraced, exec_final_of_valid rfl]
  obtain ⟨_, _, _, _, _, _, _, ⟨_, _, _, ovr, _, _, _, _⟩, _, _, _, _, _, _, _, _⟩ := s
  cases hovr
  rfl

end

theorem absorbSeedBuffer_raced (s : State) : (absorbSeedBuffer s).raced = s.raced := by
  rw [absorbSeedBuffer_frame]

theorem absorbSelf_raced (s : State) : (absorbSelf s).raced = s.raced := by
  rw [absorbSelf_frame]

/-- Where the message pass ends, the six commands leave what HASH leaves, but for CUR. -/
theorem issueAll_hash_sequence {s u : State} (ha : ArgsLegal (hashStart s)) (hp : MessagePlain (hashStart s))
    (hu : absorbMessage (hashStart s) = .ok u) :
    issueAll [0x00000001, 0x00000002, 0x00000004, 0x00000005, 0x00000006, 0x00000007] s =
      .next { completeCommand (finaliseState (absorbSelf (absorbSeedBuffer u))) with cur := 0x00000007 } := by
  have hraced : u.raced = [] := by rw [absorbMessage_frame (.inl hu)]; rfl
  have hraced5 : (absorbSeedBuffer u).raced = [] := by rw [absorbSeedBuffer_raced, hraced]
  have hraced6 : (absorbSelf (absorbSeedBuffer u)).raced = [] := by rw [absorbSelf_raced, hraced5]
  have hovr : (absorbSelf (absorbSeedBuffer u)).status.ovr = false := by
    rw [absorbSelf_status, absorbSeedBuffer_status, absorbMessage_status (.inl hu)]
    rfl
  change issueAll ([0x00000001, 0x00000002] ++ [0x00000004, 0x00000005, 0x00000006, 0x00000007]) s = _
  rw [issueAll_append (issueAll_init_seedx s), issueAll_cons (issue_absm_running_ok (s := hashStart s) rfl ha hp hu),
    issueAll_cons (issue_abss_running hraced), issueAll_cons (issue_absx_running hraced5),
    issueAll_cons (issue_final_running hraced6 hovr), issueAll]

/-- Settles O42: where HASH ends without an error, `issueAll_hash_sequence`; where it ends in one, ABSM meets the same message. -/
theorem hashEqualsCommandSequence : Obligations.HashEqualsCommandSequence := by
  refine ⟨fun s t h herr => ?_, fun s t h herr => ?_⟩ <;> rw [issue_of_ok decode_eight] at h
  · obtain ⟨_, rfl⟩ | ⟨hi, hp, ⟨u, _, rfl⟩ | ⟨u, hu, rfl⟩⟩ := execHash_next h
    · cases herr
    · cases herr
    · exact issueAll_hash_sequence ((messageInvalid_eq_false_iff _).mp hi) ((messageNotIdempotent_eq_false_iff _).mp hp) hu
  · obtain ⟨hi, rfl⟩ | ⟨hi, hp, ⟨u, hu, rfl⟩ | ⟨u, hu, rfl⟩⟩ := execHash_next h
    · exact ⟨_, _, issueAll_init_seedx s, rfl,
        issue_absm_running_illegal (s := hashStart s) rfl ((messageInvalid_eq_true_iff _).mp hi), rfl, rfl⟩
    · exact ⟨_, _, issueAll_init_seedx s, rfl,
        issue_absm_running_error (s := hashStart s) rfl ((messageInvalid_eq_false_iff _).mp hi)
          ((messageNotIdempotent_eq_false_iff _).mp hp) hu, rfl, rfl⟩
    · cases herr

end Sys2Proof.Machine
end

section
/-! SUPPORT. MIX with its pair, its error and its example (42_mixer.md R107). -/

namespace Sys2Proof.Machine

theorem mixPivot_of_lt {a : BitVec 3} (h : a.toNat < 7) : mixPivot a = some ⟨a.toNat, h⟩ := by
  rw [mixPivot, dif_pos h]

/-- The second half-step of R107's example. -/
theorem mixHalf_mixHalf_one : mixHalf (0 ^^^ 0xB94DDBE2A6D069FF) = 0x224B17CA4AC4591B := by decide

/-- `mix(0)` on R107's example pair. -/
theorem mix_zero_example {st : Words} (h0 : st[0] = 1) (h1 : st[1] = 0) :
    (mix 0 st)[0] = 0xB94DDBE2A6D069FF ∧ (mix 0 st)[1] = 0x224B17CA4AC4591B := by
  have hpivot : (mix 0 st)[0] = 0xB94DDBE2A6D069FF :=
    (mix_get_pivot 0 st).trans ((congrArg mixHalf h0).trans mixHalf_one)
  refine ⟨hpivot, (mix_get_partner 0 st).trans ?_⟩
  simp only [Fin.val_zero, Nat.zero_add, hpivot, h1, mixHalf_mixHalf_one]

/-- Settles O29: the words by the rules of `mix`, with the half-step written out. -/
theorem mixCompletes : Obligations.MixCompletes := by
  refine ⟨fun s a A B hA hB hv => ?_, fun s a ha hv => exec_mix_of_not_valid ha hv, fun s hv h0 h1 => ?_⟩
  · obtain ⟨_, hA8⟩ := A
    obtain ⟨_, hB8⟩ := B
    obtain rfl := hA
    obtain rfl := hB
    have hlt : a.toNat < 7 := by omega
    refine ⟨_, exec_mix_of_valid (mixPivot_of_lt hlt) hv, rfl, mix_get_pivot ⟨a.toNat, hlt⟩ s.st,
      mix_get_partner ⟨a.toNat, hlt⟩ s.st, fun k hkA hkB => ?_⟩
    exact mix_get_outside s.st k.isLt (fun h => hkA (Fin.ext h)) (fun h => hkB (Fin.ext h))
  · exact ⟨_, exec_mix_of_valid rfl hv, mix_zero_example h0 h1⟩

end Sys2Proof.Machine
end

section
/-! SUPPORT. The word phase counted (43_absorption.md R113 to R116, R127), and the rotations and the byte step (00_scope.md R12, R118 to
R120). -/

namespace Sys2Proof.Machine

/-! ## Slot cursor and counter (R115, R116) -/

/-- Data word `i` of a source that always answers (R112). -/
def dataWord (f : Nat → Byte) (i : Nat) : Word64 := le64 ((List.range 8).map (fun k => f (8 * i + k)))

/-- A word step over data that always answers. -/
theorem wordStep_total (f : Nat → Byte) (i : Nat) (x : Pipe) :
    wordStep (fun k => some (f k)) i x = .ok (wordStepOn (dataWord f i) i (atElement .word i x)) := by
  simp only [wordStep, readBytes_total, dataWord]

/-- The counters after `n` word steps of a pass. -/
theorem wordPhase_counters (p : Config.Params) (f : Nat → Byte) (len n : Nat) (st : Words) :
    ∃ x, wordPhase (fun k => some (f k)) n (startPass p len st) = .ok x ∧
      x.pass.sidx.val = n % 8 ∧ x.pass.len = len ∧ x.pass.c8 = p.byteCtrInit ∧
      x.pass.ctr = p.wordCtrInit - ((List.range n).map (dataWord f)).sum := by
  induction n with
  | zero => exact ⟨startPass p len st, rfl, rfl, rfl, rfl, (sub_zero _).symm⟩
  | succ n ih =>
    obtain ⟨x, hx, hsidx, hlen, hc8, hctr⟩ := ih
    refine ⟨wordStepOn (dataWord f n) n (atElement .word n x), by simp only [wordPhase, hx, wordStep_total],
      wordStepOn_sidx _ (x := atElement .word n x) hsidx, hlen, hc8, ?_⟩
    calc x.pass.ctr + (~~~dataWord f n + 1)
        = p.wordCtrInit - ((List.range n).map (dataWord f)).sum - dataWord f n := by rw [add_not_add_one, hctr]
      _ = p.wordCtrInit - ((List.range (n + 1)).map (dataWord f)).sum := by
          rw [List.range_succ, List.map_append, List.sum_append, List.map_singleton, List.sum_singleton, sub_sub]

/-- Settles O37: `wordPhase_counters`. -/
theorem wordPhaseCounters : Obligations.WordPhaseCounters := wordPhase_counters

/-! ## Snapshot and live State (R127) -/

/-- A word step leaves every word past its slot as it is: its mixer's pair ends at the slot (R114, R116). -/
theorem wordStepOn_get_past (w : Word64) (i : Nat) (x : Pipe) {k : Nat} (hk : k < 8) (hslot : x.pass.sidx.val < k) :
    (wordStepOn w i x).st[k] = x.st[k] := by
  simp only [wordStepOn]
  split_ifs with hodd
  · rw [mix_get_outside _ hk (by simp only [gatedPivot]; omega) (by simp only [gatedPivot]; omega),
      Vector.getElem_set_ne _ _ (by omega)]
  · rw [Vector.getElem_set_ne _ _ (by omega)]

/-- Before word step `n` of a pass's first turn the words from `n` on are the old ones. -/
theorem wordPhase_get_ahead (p : Config.Params) (f : Nat → Byte) (len : Nat) {n : Nat} (hn : n ≤ 8) (st : Words) {x : Pipe}
    (hx : wordPhase (fun k => some (f k)) n (startPass p len st) = .ok x) :
    ∀ k (hk : k < 8), n ≤ k → x.st[k] = st[k] := by
  induction n generalizing x with
  | zero => cases hx; exact fun _ _ _ => rfl
  | succ n ih =>
    obtain ⟨y, hy, hsidx, _⟩ := wordPhase_counters p f len n st
    simp only [wordPhase, hy, wordStep_total, Except.ok.injEq] at hx
    subst hx
    intro k hk hnk
    rw [wordStepOn_get_past _ _ (atElement .word n y) hk (by simp only [atElement, hsidx]; omega)]
    exact ih (by omega) hy k hk (by omega)

/-- Settles O36: by `wordPhase_get_ahead` word n is still the old one, and the snapshot answers with the old one's bytes. -/
theorem snapshotEqualsLiveRead : Obligations.SnapshotEqualsLiveRead := by
  intro p st n hn
  obtain ⟨x, hx, _⟩ := wordPhase_counters p (stByte st) 64 n st
  have hword : x.st[n] = st[n] := wordPhase_get_ahead p (stByte st) 64 (by omega) st hx n hn (Nat.le_refl n)
  refine ⟨x, hx, hword, ?_⟩
  rw [hword]
  exact (readBytes_total (stByte st) (8 * n) 8).trans (congrArg some (bytesLE_word st ⟨n, hn⟩).symm)

/-! ## Rotations (R12) -/

/-- A right rotation of a u8 (R12) is the library's. -/
theorem rotr8_eq_rotateRight (x : Byte) {r : Nat} (hr : r < 8) : rotr8 x r = x.rotateRight r := by
  rw [rotr8, BitVec.rotateRight_def, Nat.mod_eq_of_lt hr]

/-- A bit of a right rotation, its place counted modulo the width. -/
theorem rotateRight_getLsbD {w : Nat} (x : BitVec w) {r k : Nat} (hr : r < w) (hk : k < w) :
    (x.rotateRight r).getLsbD k = x.getLsbD ((k + r) % w) := by
  rw [BitVec.getLsbD_rotateRight, Nat.mod_eq_of_lt hr]
  by_cases hwrap : k < w - r
  · rw [cond_eq_ite, decide_eq_true hwrap, if_pos rfl, Nat.mod_eq_of_lt (by omega), Nat.add_comm]
  · have hmod : (k + r) % w = k - (w - r) := by
      rw [Nat.mod_eq_sub_mod (by omega), Nat.mod_eq_of_lt (by omega)]
      omega
    rw [decide_eq_false hwrap, hmod]
    simp [hk]

/-- Settles O38: both rotations are the library's, read bit by bit; the byte step is its definition with them. -/
theorem rotationsAndByteStep : Obligations.RotationsAndByteStep := by
  refine ⟨fun x r k hr hk => ?_, fun x r k hr hk => ?_, fun x => ⟨rotr64_zero x, rotr64_eq_rotateRight x (by decide)⟩,
    fun x => ⟨?_, rotr8_eq_rotateRight x (by decide), ?_⟩, fun b j x a ha => ⟨?_, ?_⟩⟩
  · rw [rotr64_eq_rotateRight x hr, rotateRight_getLsbD x hr hk]
  · rw [rotr8_eq_rotateRight x hr, rotateRight_getLsbD x hr hk]
  · simp [rotr8]
  · revert x; decide
  · obtain rfl : a = bytePivot j := Fin.ext ha
    rw [← rotr8_eq_rotateRight _ (by decide)]
    rfl
  · rw [byteStepOn, add_not_add_one]

end Sys2Proof.Machine
end

section
/-! SUPPORT. The invariant of every step (10_state.md R25 to R42, 60_exceptions.md R147): its part that speaks of the data of a command,
which every operation of a command keeps, and its part that speaks of STATUS and CUR, which acceptance and completion establish. -/

namespace Sys2Proof.Machine

/-! ## The pass registers (R42) -/

/-- The pipeline at which a part of a pass ends, whether it goes on or a read raised (R151). -/
def PipeEnd.pipe : PipeEnd → Pipe
  | .ok x => x
  | .error x => x

/-- IDX and LEN are below 2^31 (R42). -/
def Pass.Bounded (x : Pass) : Prop := x.idx < 2 ^ 31 ∧ x.len < 2 ^ 31

theorem wordStep_pass (d : Nat → Option Byte) (i : Nat) (x : Pipe) :
    (wordStep d i x).pipe.pass.idx = i ∧ (wordStep d i x).pipe.pass.len = x.pass.len := by
  unfold wordStep
  split <;> exact ⟨rfl, rfl⟩

theorem byteStep_pass (d : Nat → Option Byte) (j : Nat) (x : Pipe) :
    (byteStep d j x).pipe.pass.idx = j ∧ (byteStep d j x).pipe.pass.len = x.pass.len := by
  unfold byteStep
  split <;> exact ⟨rfl, rfl⟩

theorem wordPhase_bounded {d : Nat → Option Byte} {n : Nat} {x : Pipe} (hn : n < 2 ^ 31) (hx : x.pass.Bounded) :
    (wordPhase d n x).pipe.pass.Bounded := by
  induction n with
  | zero => exact hx
  | succ n ih =>
    have hprev := ih (by omega)
    unfold wordPhase
    cases hy : wordPhase d n x with
    | error y => rwa [hy] at hprev
    | ok y =>
      rw [hy] at hprev
      obtain ⟨hidx, hlen⟩ := wordStep_pass d n y
      exact ⟨by rw [hidx]; omega, by rw [hlen]; exact hprev.2⟩

theorem bytePhase_bounded {d : Nat → Option Byte} {start n : Nat} {x : Pipe} (hn : start + n < 2 ^ 31)
    (hx : x.pass.Bounded) : (bytePhase d start n x).pipe.pass.Bounded := by
  induction n with
  | zero => exact hx
  | succ n ih =>
    have hprev := ih (by omega)
    unfold bytePhase
    cases hy : bytePhase d start n x with
    | error y => rwa [hy] at hprev
    | ok y =>
      rw [hy] at hprev
      obtain ⟨hidx, hlen⟩ := byteStep_pass d (start + n) y
      exact ⟨by rw [hidx]; omega, by rw [hlen]; exact hprev.2⟩

/-- A pass of fewer than 2^31 bytes keeps its registers bounded, also where a read raises. -/
theorem absorb_bounded {p : Config.Params} {d : Nat → Option Byte} {len : Nat} {st : Words} (hlen : len < 2 ^ 31) :
    (absorb p d len st).pipe.pass.Bounded := by
  have hwords : (wordPhase d (len / 8) (startPass p len st)).pipe.pass.Bounded :=
    wordPhase_bounded (by omega) ⟨Nat.two_pow_pos 31, hlen⟩
  unfold absorb
  cases hy : wordPhase d (len / 8) (startPass p len st) with
  | error y => rwa [hy] at hwords
  | ok y =>
    rw [hy] at hwords
    have hbytes : (bytePhase d (8 * (len / 8)) (len % 8) (wordFlush y)).pipe.pass.Bounded :=
      bytePhase_bounded (by omega) ⟨hwords.1, hwords.2⟩
    simp only
    cases hz : bytePhase d (8 * (len / 8)) (len % 8) (wordFlush y) with
    | error z => rwa [hz] at hbytes
    | ok z =>
      rw [hz] at hbytes
      exact ⟨hbytes.1, hbytes.2⟩

theorem msgCount_lt (s : State) : msgCount s < 2 ^ 31 := by
  have hmsb := BitVec.toInt_lt (x := s.msgLen)
  rw [msgCount, msgLength]
  omega

/-! ## The data of a command -/

/-- The part of the invariant that does not speak of a command's acceptance and completion. -/
structure State.DataInv (s : State) : Prop where
  memCanonical : Memory.wf s.mem = true
  memBounded : ∀ c ∈ s.mem, c.1 < 2 ^ s.params.addrW
  addrBounded : s.msgAddr.toNat < 2 ^ s.params.addrW
  digestHighZero : s.dg[1] = 0 ∧ s.dg[2] = 0 ∧ s.dg[3] = 0
  digestClear : s.status.digestValid = false → s.dg[0] = 0
  validExclusive : ¬ (s.status.stateValid = true ∧ s.status.digestValid = true)
  passBounded : s.pass.Bounded

theorem State.Inv.dataInv {s : State} (h : s.Inv) : s.DataInv := { h with }

section
variable {s : State}

theorem State.DataInv.initialiseState (h : s.DataInv) : (initialiseState s).DataInv :=
  { h with digestHighZero := ⟨rfl, rfl, rfl⟩, digestClear := fun _ => rfl, validExclusive := by simp }

theorem State.DataInv.expandSeedBuffer (h : s.DataInv) : (expandSeedBuffer s).DataInv := { h with }

theorem State.DataInv.finaliseState (h : s.DataInv) : (finaliseState s).DataInv :=
  { h with digestHighZero := ⟨rfl, rfl, rfl⟩, digestClear := by simp, validExclusive := by simp }

theorem State.DataInv.dropSeedBuffer (h : s.DataInv) : (dropSeedBuffer s).DataInv := { h with }

theorem State.DataInv.writePipe (h : s.DataInv) {x : Pipe} (hx : x.pass.Bounded) : (writePipe x s).DataInv :=
  { h with passBounded := hx }

theorem State.DataInv.absorbMessage (h : s.DataInv) {u : State}
    (hu : absorbMessage s = .ok u ∨ absorbMessage s = .error u) : u.DataInv := by
  have hbounded := absorb_bounded (p := s.params) (d := messageByte s) (st := s.st) (msgCount_lt s)
  obtain ⟨x, hx, heq⟩ | ⟨x, hx, heq⟩ := absorbMessage_cases s <;>
  · rw [hx] at hbounded
    rw [heq] at hu
    obtain hu | hu := hu <;> cases hu
    exact { h.writePipe hbounded with }

theorem State.DataInv.absorbSeedBuffer (h : s.DataInv) : (absorbSeedBuffer s).DataInv := by
  obtain ⟨x, hx, heq⟩ := absorbSeedBuffer_eq s
  have hbounded := absorb_bounded (p := s.params) (d := seedbufByte s.sb) (len := 16) (st := s.st) (by decide)
  rw [hx] at hbounded
  rw [heq]
  exact h.writePipe hbounded

theorem State.DataInv.absorbSelf (h : s.DataInv) : (absorbSelf s).DataInv := by
  obtain ⟨x, hx, heq⟩ := absorbSelf_eq s
  have hbounded := absorb_bounded (p := s.params) (d := snapByte s.st) (len := 64) (st := s.st) (by decide)
  rw [hx] at hbounded
  rw [heq]
  exact { h with passBounded := hbounded }

/-! ## Acceptance and completion (R86, R89) -/

theorem errorNumber_bounds (e : ErrorCode) : (errorNumber e).toNat ≤ 6 ∧ errorNumber e ≠ 0 := by
  cases e <;> decide

theorem State.DataInv.completeCommand (h : s.DataInv) : (completeCommand s).Inv :=
  { h with errcodeBounded := by simp, errIffCode := by simp, busyClear := by simp, busyDecodes := by simp }

theorem State.DataInv.raiseError (h : s.DataInv) (e : ErrorCode) : (raiseError e s).Inv :=
  { h with
    errcodeBounded := (errorNumber_bounds e).1
    errIffCode := by simpa using (errorNumber_bounds e).2
    busyClear := by simp
    busyDecodes := by simp }

theorem State.DataInv.raiseBusError (h : s.DataInv) : (raiseBusError s).Inv :=
  { h with
    validExclusive := by simp
    errcodeBounded := (errorNumber_bounds .busError).1
    errIffCode := by simpa using (errorNumber_bounds .busError).2
    busyClear := by simp
    busyDecodes := by simp }

theorem State.DataInv.presentCommand (h : s.DataInv) (c : Word32) : (presentCommand c s).Inv := by
  have haccepted : (acceptCommand c s).DataInv := { h with }
  obtain ⟨i, hd, heq⟩ | ⟨e, _, heq⟩ := presentCommand_cases c s <;> rw [heq]
  · exact
      { haccepted with
        errcodeBounded := by simp, errIffCode := by simp, busyClear := by simp
        busyDecodes := fun _ => by rw [acceptCommand_cur, hd]; rfl }
  · exact haccepted.raiseError e

/-- A command ends in a state with the invariant: its operations keep the data, and its end establishes the rest. -/
theorem State.DataInv.exec {i : Instr} {t : State} (hs : s.DataInv) (h : exec i s = .next t) : t.Inv := by
  cases i with
  | nop => cases h; exact hs.completeCommand
  | init => cases h; exact hs.initialiseState.completeCommand
  | seedx => cases h; exact hs.expandSeedBuffer.completeCommand
  | norm => cases h; exact State.DataInv.completeCommand { hs with }
  | mix a =>
    obtain ⟨_, rfl⟩ | ⟨_, _, _, rfl⟩ | ⟨_, _, _, rfl⟩ := execMix_next h
    · exact hs.raiseError _
    · exact State.DataInv.completeCommand { hs with }
    · exact hs.raiseError _
  | absm =>
    obtain ⟨_, rfl⟩ | ⟨_, _, rfl⟩ | ⟨_, _, _, ⟨u, hu, rfl⟩ | ⟨u, hu, rfl⟩⟩ := execAbsm_next h
    · exact hs.raiseError _
    · exact hs.raiseError _
    · exact (hs.absorbMessage (.inr hu)).raiseBusError
    · exact (hs.absorbMessage (.inl hu)).completeCommand
  | abss =>
    obtain ⟨_, rfl⟩ | ⟨_, _, rfl⟩ | ⟨_, _, rfl⟩ := execAbss_next h
    · exact hs.raiseError _
    · exact hs.raiseError _
    · exact hs.absorbSeedBuffer.completeCommand
  | absx =>
    obtain ⟨_, rfl⟩ | ⟨_, rfl⟩ := execAbsx_next h
    · exact hs.raiseError _
    · exact hs.absorbSelf.completeCommand
  | final =>
    obtain ⟨_, rfl⟩ | ⟨_, rfl⟩ := execFinal_next h
    · exact hs.raiseError _
    · exact hs.finaliseState.completeCommand
  | hash =>
    have hstart := hs.expandSeedBuffer.initialiseState
    obtain ⟨_, rfl⟩ | ⟨_, _, ⟨u, hu, rfl⟩ | ⟨u, hu, rfl⟩⟩ := execHash_next h
    · exact hs.raiseError _
    · exact (hstart.absorbMessage (.inr hu)).dropSeedBuffer.raiseBusError
    · exact (hstart.absorbMessage (.inl hu)).absorbSeedBuffer.absorbSelf.finaliseState.completeCommand

/-! ## The moves of the host, of the platform and of the engine -/

theorem State.Inv.engineTurn {t : State} (hs : s.Inv) (h : engineTurn s = .next t) : t.Inv := by
  obtain ⟨_, heq⟩ | ⟨i, _, _, heq⟩ | ⟨e, _, _, heq⟩ := engineTurn_cases s <;> rw [heq] at h
  · cases h; exact hs
  · exact hs.dataInv.exec h
  · cases h; exact hs.dataInv.raiseError e

theorem maskMsgAddr_lt (p : Config.Params) (v : Word64) : (maskMsgAddr p v).toNat < 2 ^ p.addrW := by
  rw [maskMsgAddr, BitVec.toNat_ofNat]
  exact (Nat.mod_le _ _).trans_lt (Nat.mod_lt _ (Nat.two_pow_pos _))

theorem State.Inv.writeIdle (hs : s.Inv) (r : Reg) (v : Word32) : (writeIdle r v s).Inv := by
  cases r with
  | cmd => exact hs.dataInv.presentCommand v
  | seed | msgLen => exact { hs with }
  | msgAddrLo | msgAddrHi => exact { hs with addrBounded := maskMsgAddr_lt _ _ }
  | _ => exact hs

theorem State.Inv.writeWindow (hs : s.Inv) (q : Nat) (v : Word32) : (writeWindow q v s).Inv := by
  cases hr : regAtWord q with
  | none => rwa [writeWindow_reserved hr]
  | some r =>
    rw [writeWindow_of_reg hr, writeReg]
    split_ifs
    · exact { hs with }
    · exact hs.writeIdle r v

theorem State.Inv.readWindow (hs : s.Inv) (q : Nat) : (readWindow q s).Inv := by
  cases hr : regAtWord q with
  | none => rw [readWindow_reserved hr]; exact { hs with }
  | some r => rw [readWindow_of_reg hr]; exact { hs with }

/-- The addresses that writes list: those written, and those listed before. -/
theorem mem_writeAll {m : Memory} {a : Nat} {vs : List Byte} {c : Host.Cell} (h : c ∈ Memory.writeAll m a vs) :
    (a ≤ c.1 ∧ c.1 < a + vs.length) ∨ c ∈ m := by
  induction vs generalizing m a with
  | nil => exact .inr h
  | cons v vs ih =>
    rw [List.length_cons]
    obtain hwritten | hlisted := ih h
    · exact .inl (by omega)
    · obtain haddr | hm := mem_write hlisted
      · exact .inl (by omega)
      · exact .inr hm

theorem State.Inv.hostMem {addr : Nat} {data : List Byte} {t : State} (hs : s.Inv) (h : hostMem addr data s = .next t) :
    t.Inv := by
  obtain ⟨hrange, _, _, rfl⟩ := hostMem_next h
  refine { hs with memCanonical := Memory.writeAll_wf hs.memCanonical _ _, memBounded := fun c hc => ?_ }
  obtain hwritten | hlisted := mem_writeAll hc
  · rw [memSize] at hrange
    change c.1 < 2 ^ s.params.addrW
    omega
  · exact hs.memBounded c hlisted

theorem Pass.drawn_bounded (n : Nat) : (Pass.drawn n).Bounded :=
  ⟨(Config.draw 31 (n + 3)).isLt, (Config.draw 31 (n + 4)).isLt⟩

theorem State.Inv.resetBlock (hs : s.Inv) : (resetBlock s).Inv :=
  { memCanonical := hs.memCanonical
    memBounded := hs.memBounded
    addrBounded := Nat.two_pow_pos _
    digestHighZero := ⟨rfl, rfl, rfl⟩
    digestClear := fun _ => rfl
    validExclusive := by simp [Status.zero]
    errcodeBounded := by simp [Status.zero]
    errIffCode := by simp [Status.zero]
    busyClear := by simp [Status.zero]
    busyDecodes := by simp [Status.zero]
    passBounded := Pass.drawn_bounded _ }

theorem State.Inv.withInputs (hs : s.Inv) (rest : List Input) : ({ s with inputs := rest } : State).Inv := { hs with }

end

/-- Settles O58: every move of `step_cases` keeps the invariant. -/
theorem stepKeepsInv : Obligations.StepKeepsInv := by
  intro s t hs hstep
  obtain ⟨_, h⟩ | ⟨rest, _, h⟩ | ⟨addr, bytes, v, rest, q, _, _, rfl⟩ | ⟨addr, bytes, rest, q, _, _, rfl⟩ |
    ⟨rest, _, _, h⟩ | ⟨rest, _, _, rfl⟩ | ⟨addr, data, rest, _, h⟩ | ⟨rest, _, rfl⟩ := step_cases hstep
  · exact hs.engineTurn h
  · exact (hs.withInputs rest).engineTurn h
  · exact (hs.withInputs rest).writeWindow q v
  · exact (hs.withInputs rest).readWindow q
  · exact hs.engineTurn h
  · exact (hs.withInputs rest).readWindow 1
  · exact (hs.withInputs rest).hostMem h
  · exact (hs.withInputs rest).resetBlock

/-- Settles O59: memory lists nothing, and the registers the invariant speaks of are zero or drawn within their bounds. -/
theorem resetHasInv : Obligations.ResetHasInv :=
  { memCanonical := reset_mem_wf
    memBounded := fun _ hc => absurd hc List.not_mem_nil
    addrBounded := Nat.two_pow_pos _
    digestHighZero := ⟨rfl, rfl, rfl⟩
    digestClear := fun _ => rfl
    validExclusive := by simp [State.reset, Status.zero]
    errcodeBounded := by simp [State.reset, Status.zero]
    errIffCode := by simp [State.reset, Status.zero]
    busyClear := by simp [State.reset, Status.zero]
    busyDecodes := by simp [State.reset, Status.zero]
    passBounded := Pass.drawn_bounded 13 }

end Sys2Proof.Machine
end

section
/-! SUPPORT. The operand registers, MSG_ADDR and STATUS in the register window (10_state.md R26 to R29, R36), acceptance in one step
(40_command_sequencing.md R86) and reset (70_reset_and_hazards.md R170). -/

namespace Sys2Proof.Machine

/-! ## The register map (R36) -/

/-- Settles O14: the offsets are `regOffset` by definition, `regAtWord` is its inverse, and a write to a read-only register is
ignored (`writeReg_readOnly`). -/
theorem registerMapAgrees : Obligations.RegisterMapAgrees := by
  refine ⟨⟨rfl, rfl, rfl, rfl, rfl, rfl, fun _ => ⟨rfl, rfl, rfl⟩, fun _ => ⟨rfl, rfl⟩⟩,
    fun r => ⟨regOffset_aligned r, regOffset_lt_windowSize r, regAtWord_regOffset r⟩, fun _ _ => regOffset_of_regAtWord,
    fun s r v rest hr hin => ?_⟩
  have hw : regWritable r = false := Bool.eq_false_iff.mpr (mt (regWritable_iff r).mp hr)
  rw [step_write_reg hin, writeReg_readOnly v _ hw]

/-- Settles O15: SEED and MSG_LEN are registers of the window that take every value. -/
theorem operandRegistersReadBack : Obligations.OperandRegistersReadBack :=
  ⟨fun _ _ _ hb hin => step_write_reg_idle (r := .seed) hin hb, fun _ _ _ hb hin => step_write_reg_idle (r := .msgLen) hin hb,
    fun _ _ hin => ⟨_, step_read_reg (r := .seed) hin, rfl, rfl⟩,
    fun _ _ hin => ⟨_, step_read_reg (r := .msgLen) hin, rfl, rfl⟩⟩

/-! ## MSG_ADDR (R28) -/

/-- Bits at or above ADDR_W are hardwired zero. -/
theorem maskMsgAddr_getLsbD (p : Config.Params) (v : Word64) (k : Nat) :
    (maskMsgAddr p v).getLsbD k = (decide (k < p.addrW) && v.getLsbD k) := by
  rw [maskMsgAddr, BitVec.getLsbD_ofNat, Nat.testBit_mod_two_pow, BitVec.testBit_toNat]
  by_cases hk : k < 64
  · rw [decide_eq_true hk, Bool.true_and]
  · rw [BitVec.getLsbD_of_ge v k (by omega), Bool.and_false, Bool.and_false]

/-- The bits of MSG_ADDR with its low half replaced. -/
theorem getLsbD_replace_low (a : Word64) (v : Word32) (k : Nat) :
    (hiHalf a ++ v).getLsbD k = if k < 32 then v.getLsbD k else a.getLsbD k := by
  rw [BitVec.getLsbD_append]
  split_ifs with hlow
  · rfl
  · rw [hiHalf, BitVec.getLsbD_extractLsb', Nat.add_sub_cancel' (by omega)]
    by_cases hk : k - 32 < 32
    · rw [decide_eq_true hk, Bool.true_and]
    · rw [BitVec.getLsbD_of_ge a k (by omega), Bool.and_false]

/-- The bits of MSG_ADDR with its high half replaced. -/
theorem getLsbD_replace_high (a : Word64) (v : Word32) (k : Nat) :
    (v ++ loHalf a).getLsbD k = if k < 32 then a.getLsbD k else v.getLsbD (k - 32) := by
  rw [BitVec.getLsbD_append]
  split_ifs with hlow
  · rw [loHalf, BitVec.getLsbD_extractLsb', decide_eq_true hlow, Bool.true_and, Nat.zero_add]
  · rfl

/-- An address below 2^32 has no high half. -/
theorem hiHalf_eq_zero {a : Word64} (h : a.toNat < 2 ^ 32) : hiHalf a = 0 := by
  refine BitVec.eq_of_toNat_eq ?_
  rw [hiHalf, BitVec.extractLsb'_toNat, Nat.shiftRight_eq_div_pow, Nat.div_eq_of_lt h]
  rfl

/-- Settles O16: a write masks the address with its half replaced; a read returns the half; and an address below 2^ADDR_W with
ADDR_W at most 32 has no high half. -/
theorem msgAddrHardwiredBits : Obligations.MsgAddrHardwiredBits := by
  refine ⟨fun s v rest hb hin => ⟨_, step_write_reg_idle (r := .msgAddrLo) hin hb, rfl, fun k => ?_⟩,
    fun s v rest hb hin => ⟨_, step_write_reg_idle (r := .msgAddrHi) hin hb, rfl, fun k => ?_⟩,
    fun s rest hin => ⟨_, step_read_reg (r := .msgAddrLo) hin, rfl⟩,
    fun s rest hin => ⟨_, step_read_reg (r := .msgAddrHi) hin, rfl⟩,
    fun s rest hinv hle hin => ⟨_, step_read_reg (r := .msgAddrHi) hin, ?_⟩⟩
  · simp only [writeIdle, maskMsgAddr_getLsbD, getLsbD_replace_low]
  · simp only [writeIdle, maskMsgAddr_getLsbD, getLsbD_replace_high]
  · exact hiHalf_eq_zero (hinv.addrBounded.trans_le (Nat.pow_le_pow_right (by decide) hle))

/-! ## STATUS (R29) -/

/-- The flags in the STATUS word. -/
theorem statusWord_flags (f : Status) :
    (statusWord f).getLsbD 0 = f.busy ∧ (statusWord f).getLsbD 1 = f.done ∧ (statusWord f).getLsbD 2 = f.err ∧
      (statusWord f).getLsbD 3 = f.ovr := by
  simp only [statusWord, BitVec.getLsbD_append]
  simp

theorem statusWord_errcode (f : Status) : (statusWord f).extractLsb' 4 4 = f.errcode := by
  ext i hi
  rw [BitVec.getElem_extractLsb']
  simp only [statusWord, BitVec.getLsbD_append]
  have hbits : ¬ 4 + i < 1 ∧ ¬ 4 + i - 1 < 1 ∧ ¬ 4 + i - 1 - 1 < 1 ∧ ¬ 4 + i - 1 - 1 - 1 < 1 ∧ 4 + i - 1 - 1 - 1 - 1 < 4 := by
    omega
  obtain ⟨h0, h1, h2, h3, h4⟩ := hbits
  have hplace : 4 + i - 1 - 1 - 1 - 1 = i := by omega
  simp only [h0, h1, h2, h3, hplace, hi, if_true, if_false, BitVec.getLsbD_eq_getElem]

/-- The reserved bits of the STATUS word read zero. -/
theorem statusWord_reserved (f : Status) {k : Nat} (hk : 11 ≤ k) : (statusWord f).getLsbD k = false := by
  simp only [statusWord, BitVec.getLsbD_append]
  repeat rw [if_neg (by omega)]
  exact BitVec.getLsbD_zero

theorem statusWord_zero : statusWord Status.zero = 0 := by decide

/-- Settles O20: the word bit by bit; a read of STATUS is one of a register. -/
theorem statusWordLayout : Obligations.StatusWordLayout := by
  refine ⟨fun f => ?_, fun s rest hin => ⟨_, step_read_reg (r := .status) hin, rfl, rfl⟩⟩
  obtain ⟨hbusy, hdone, herr, hovr⟩ := statusWord_flags f
  obtain ⟨hst, hsb, hdg⟩ := statusWord_validBits f
  exact ⟨hbusy, hdone, herr, hovr, statusWord_errcode f, hst, hsb, hdg, fun _ => statusWord_reserved f⟩

/-! ## Acceptance and execution (R86, R88) -/

/-- Settles O7: a write to CMD presents its word, which is accepted or ends its command at once. -/
theorem commandAcceptance : Obligations.CommandAcceptance := by
  intro s c rest hb hin
  have hstep : step s = .next (presentCommand c { s with inputs := rest }) := step_write_reg_idle (r := .cmd) hin hb
  refine ⟨fun i hd => ?_, fun e hd => ?_⟩
  · rw [hstep, presentCommand_of_ok hd]
    rfl
  · rw [hstep, presentCommand_of_error hd]
    rfl

/-- A word numbered as the opcode table numbers it decodes as its command word. -/
theorem decode_tableWord {nbits w : Nat} {i : Instr} (h : decodeTableWord nbits w = some i) :
    decode (tableWord nbits w) = .ok i := by
  rw [decodeTableWord] at h
  split_ifs at h
  exact eq_ok_of_toOption_eq_some h

/-- Settles O6: each of these steps is the engine's turn, and a busy engine's turn is `exec` (`engineTurn_busy`). -/
theorem stepRunsDecodedCommand : Obligations.StepRunsDecodedCommand := by
  refine ⟨fun s i hin hb hd => ?_, fun s i rest hin hb hd => ?_, fun s i rest hin hb hd => ?_, fun s nbits w i hd => ?_⟩
  · rw [step, hin]
    exact engineTurn_busy hb hd
  · rw [step, hin]
    exact engineTurn_busy (s := { s with inputs := rest }) hb hd
  · simp only [step, hin, hb, if_true]
    exact engineTurn_busy hb hd
  · exact engineTurn_busy (s := acceptCommand (tableWord nbits w) s) rfl (decode_tableWord hd)

/-- Settles O27: both orders load the State and expand the seed, and leave STATUS with both valid bits set. -/
theorem initSeedxCommute : Obligations.InitSeedxCommute := by
  intro s
  refine ⟨_, issueAll_init_seedx s, ?_⟩
  simp only [issueAll, issue_init, issue_of_ok decode_two, exec_seedx]
  rfl

/-! ## Reset (R170) -/

/-- Settles O22: the step is `resetBlock`, read field by field. -/
theorem resetInputSetsState : Obligations.ResetInputSetsState := by
  intro s rest hin
  have hstep : step s = .next (resetBlock { s with inputs := rest }) := by simp only [step, hin]
  exact ⟨_, hstep, statusWord_zero, rfl, rfl, rfl, rfl, rfl, rfl, rfl, rfl, rfl, rfl, rfl, rfl, rfl, rfl⟩

/-- Settles O23: `State.reset`, read field by field. -/
theorem resetStateValues : Obligations.ResetStateValues :=
  ⟨statusWord_zero, rfl, rfl, rfl, rfl, rfl, rfl, rfl, rfl, rfl, rfl⟩

end Sys2Proof.Machine
end

section
/-! SUPPORT. Host writes to message memory (20_memory.md R51, R65, R66, 60_exceptions.md R169): what they write, where they have no
step, and which reads they make race. -/

namespace Sys2Proof.Machine

/-! ## Writes of several bytes (R65) -/

/-- Writes of several bytes, read back: those bytes at their addresses, and every other byte as before. -/
theorem Memory.read_writeAll {m : Memory} (h : Memory.wf m = true) (addr : Nat) (data : List Byte) (a : Nat) :
    Memory.read (Memory.writeAll m addr data) a =
      if addr ≤ a ∧ a < addr + data.length then data.getD (a - addr) 0 else Memory.read m a := by
  induction data generalizing m addr with
  | nil => rw [if_neg (by rw [List.length_nil]; omega)]; rfl
  | cons v vs ih =>
    rw [Memory.writeAll, ih (Memory.write_wf h addr v), Memory.read_write h, List.length_cons]
    by_cases hfirst : a = addr
    · rw [if_neg (by omega), if_pos hfirst, if_pos (by omega), hfirst, Nat.sub_self]
      rfl
    · rw [if_neg hfirst]
      by_cases hrest : addr + 1 ≤ a ∧ a < addr + 1 + vs.length
      · have hidx : a - addr = a - (addr + 1) + 1 := by omega
        rw [if_pos hrest, if_pos (by omega), hidx, List.getD_cons_succ]
      · rw [if_neg hrest, if_neg (by omega)]

/-! ## The step of a host write to message memory -/

section
variable {s : State} {addr : Nat} {data : List Byte} {rest : List Input}

theorem step_mem (hin : s.inputs = .mem addr data :: rest) : step s = hostMem addr data { s with inputs := rest } := by
  rw [step, hin]

/-- A host write inside message memory, outside the window and, while the engine is busy, inside the message range has a step. -/
theorem hostMem_of_admitted (hrange : addr + data.length ≤ memSize s.params)
    (hwindow : meetsWindow s.params addr data.length = false)
    (hbusy : s.status.busy = true → inMessage s addr data.length = true) :
    hostMem addr data s =
      .next { s with mem := Memory.writeAll s.mem addr data, raced := racedBy s addr data.length ++ s.raced } := by
  have hmessage : ¬ (s.status.busy && !inMessage s addr data.length) = true := by
    cases hb : s.status.busy with
    | false => simp
    | true => simp [hbusy hb]
  rw [hostMem, if_neg (by omega), if_neg (Bool.eq_false_iff.mp hwindow), if_neg hmessage]

/-- A host write with a byte at or above 2^ADDR_W has no step (R51). -/
theorem hostMem_outOfRange (hrange : memSize s.params < addr + data.length) :
    hostMem addr data s = .fault .hostMemOutOfRange :=
  if_pos hrange

/-- A host write with a byte of a window that lies in message memory has no step (R53). -/
theorem hostMem_inWindow (hrange : addr + data.length ≤ memSize s.params)
    (hwindow : meetsWindow s.params addr data.length = true) : hostMem addr data s = .fault .hostAccessNotWord := by
  rw [hostMem, if_neg (Nat.not_lt.mpr hrange), if_pos hwindow]

/-- A host write outside the message range has no step while the engine is busy (R169). -/
theorem hostMem_whileBusy (hrange : addr + data.length ≤ memSize s.params)
    (hwindow : meetsWindow s.params addr data.length = false) (hb : s.status.busy = true)
    (hmessage : ¬ inMessage s addr data.length = true) : hostMem addr data s = .fault .hostMemWhileBusy := by
  have hdenied : (s.status.busy && !inMessage s addr data.length) = true := by simp [hb, hmessage]
  rw [hostMem, if_neg (Nat.not_lt.mpr hrange), if_neg (Bool.eq_false_iff.mp hwindow), if_pos hdenied]

end

/-- A range with an address in a window that lies in message memory meets the window (R52). -/
theorem meetsWindow_of_mem {p : Config.Params} {base len n : Nat} (hshared : p.windowShared = true) (hn : n < len)
    (hlo : p.csrBase ≤ base + n) (hhi : base + n < p.csrBase + 4096) : meetsWindow p base len = true := by
  have hin : inRegion (windowRegion p) (base + n) = true := decide_eq_true ⟨hlo, hhi⟩
  rw [meetsWindow, hshared, Bool.true_and, ← Bool.not_eq_false, meetsRegion_eq_false_iff]
  exact fun hout => Bool.eq_false_iff.mp (hout n hn) hin

/-- Settles O55: the three tests of `hostMem` in their order. -/
theorem hostMemoryWriteStuck : Obligations.HostMemoryWriteStuck := by
  intro s addr data rest hin
  rw [step_mem hin]
  refine ⟨fun hrange => hostMem_outOfRange hrange, fun hrange hshared ⟨n, hn, hlo, hhi⟩ => ?_,
    fun hrange hwindow hb ⟨n, hn, hout⟩ => ?_⟩
  · exact hostMem_inWindow hrange (meetsWindow_of_mem hshared hn hlo hhi)
  · refine hostMem_whileBusy hrange hwindow hb fun hmessage => ?_
    obtain ⟨hlo, hhi⟩ := (inMessage_iff s addr data.length).mp hmessage n hn
    omega

/-! ## What every step keeps (R44, R51) -/

theorem writeWindow_kept (q : Nat) (v : Word32) (s : State) :
    (writeWindow q v s).params = s.params ∧ (writeWindow q v s).mem = s.mem := by
  cases hr : regAtWord q with
  | none => rw [writeWindow_reserved hr]; exact ⟨rfl, rfl⟩
  | some r =>
    rw [writeWindow_of_reg hr, writeReg]
    split_ifs
    · exact ⟨rfl, rfl⟩
    · cases r with
      | cmd => obtain ⟨_, _, heq⟩ | ⟨_, _, heq⟩ := presentCommand_cases v s <;> rw [writeIdle, heq] <;> exact ⟨rfl, rfl⟩
      | _ => exact ⟨rfl, rfl⟩

theorem readWindow_kept (q : Nat) (s : State) : (readWindow q s).params = s.params ∧ (readWindow q s).mem = s.mem := by
  cases hr : regAtWord q with
  | none => rw [readWindow_reserved hr]; exact ⟨rfl, rfl⟩
  | some r => rw [readWindow_of_reg hr]; exact ⟨rfl, rfl⟩

theorem engineTurn_kept {s t : State} (h : engineTurn s = .next t) : t.params = s.params ∧ t.mem = s.mem := by
  obtain ⟨_, heq⟩ | ⟨i, _, _, heq⟩ | ⟨e, _, _, heq⟩ := engineTurn_cases s <;> rw [heq] at h
  · cases h; exact ⟨rfl, rfl⟩
  · obtain ⟨hmem, hparams, _⟩ := exec_kept h
    exact ⟨hparams, hmem⟩
  · cases h; exact ⟨rfl, rfl⟩

/-- No step changes the parameters, and none but a host write to it changes message memory. -/
theorem step_kept {s t : State} (hstep : step s = .next t) :
    t.params = s.params ∧ ((∀ addr data rest, s.inputs ≠ .mem addr data :: rest) → t.mem = s.mem) := by
  obtain ⟨_, h⟩ | ⟨rest, _, h⟩ | ⟨addr, bytes, v, rest, q, _, _, rfl⟩ | ⟨addr, bytes, rest, q, _, _, rfl⟩ |
    ⟨rest, _, _, h⟩ | ⟨rest, _, _, rfl⟩ | ⟨addr, data, rest, hin, h⟩ | ⟨rest, _, rfl⟩ := step_cases hstep
  · exact (engineTurn_kept h).imp_right fun hmem _ => hmem
  · exact (engineTurn_kept h).imp_right fun hmem _ => hmem
  · exact (writeWindow_kept q v _).imp_right fun hmem _ => hmem
  · exact (readWindow_kept q _).imp_right fun hmem _ => hmem
  · exact (engineTurn_kept h).imp_right fun hmem _ => hmem
  · exact (readWindow_kept 1 _).imp_right fun hmem _ => hmem
  · obtain ⟨_, _, _, rfl⟩ := hostMem_next h
    exact ⟨rfl, fun hnot => absurd hin (hnot addr data rest)⟩
  · exact ⟨rfl, fun _ => rfl⟩

/-- Settles O54: an admitted write makes its bytes read as written (`Memory.read_writeAll`), and `step_kept` is the converse. -/
theorem onlyHostWritesMemory : Obligations.OnlyHostWritesMemory := by
  refine ⟨fun s addr data rest hwf hin hrange hwindow hbusy => ?_, fun _ _ => step_kept⟩
  have hmem := hostMem_of_admitted (s := { s with inputs := rest }) hrange hwindow
    fun hb => (inMessage_iff _ addr data.length).mpr (hbusy hb)
  exact ⟨_, (step_mem hin).trans hmem, rfl, Memory.read_writeAll hwf addr data⟩

/-! ## Racing reads (R66) -/

/-- A message byte that can be read and races is read as its own draw. -/
theorem messageByte_of_raced {s : State} {n : Nat} (hadmit : memAdmits s.params (s.msgAddr.toNat + n) = true)
    (hraced : messageRaced s (s.msgAddr.toNat + n) = true) : messageByte s n = some (Config.draw 8 (s.draws + n)) := by
  rw [messageByte, if_pos hadmit, if_pos hraced]

/-- Settles O56: the written addresses are on the record of races, and a byte of the range in the window makes the range meet it. -/
theorem racingReadsAreDraws : Obligations.RacingReadsAreDraws := by
  refine ⟨fun s t addr data rest hb hin hstep n hadmit hlo hhi => messageByte_of_raced hadmit ?_,
    fun s m n hshared hm hlo hhi hadmit => messageByte_of_raced hadmit ?_⟩
  · rw [step_mem hin] at hstep
    obtain ⟨_, _, _, rfl⟩ := hostMem_next hstep
    have hracedBy : s.msgAddr.toNat + n ∈ racedBy { s with inputs := rest } addr data.length := by
      simp only [racedBy, hb, if_true, List.mem_map, List.mem_range]
      exact ⟨s.msgAddr.toNat + n - addr, by simp only at hlo hhi; omega, by simp only at hlo; omega⟩
    rw [messageRaced, Bool.or_eq_true_iff, List.contains_iff_mem]
    exact .inl (List.mem_append_left _ hracedBy)
  · rw [messageRaced, meetsWindow_of_mem (len := msgCount s) hshared hm hlo hhi, Bool.or_true]

end Sys2Proof.Machine
end

section
/-! SUPPORT. The assembler (30_encoding.md R81, R83): how a line splits into words, and which words a command's line may have. -/

namespace Sys2Proof.Machine

/-! ## The words of a line (R81) -/

/-- A comment ends the line where it begins. -/
theorem tokensFrom_comment (word l comment : List Char) :
    tokensFrom word (l ++ ';' :: comment) = tokensFrom word l := by
  induction l generalizing word with
  | nil => simp [tokensFrom]
  | cons c cs ih => simp only [List.cons_append, tokensFrom, ih]

/-- A blank at the end of a line separates nothing. -/
theorem tokensFrom_blank (word l : List Char) : tokensFrom word (l ++ [' ']) = tokensFrom word l := by
  induction l generalizing word with
  | nil => simp [tokensFrom, isSeparator, consToken]
  | cons c cs ih => simp only [List.cons_append, tokensFrom, ih]

/-- A word put before the others is one of them. -/
theorem consToken_of_ne_nil {word : List Char} (hword : word ≠ []) (rest : List (List Char)) :
    consToken word rest = word.reverse :: rest := by
  rw [consToken, if_neg (by rwa [List.isEmpty_iff])]

theorem consToken_ne_nil {word : List Char} (hword : word ≠ []) (rest : List (List Char)) : consToken word rest ≠ [] := by
  rw [consToken_of_ne_nil hword]
  exact List.cons_ne_nil _ _

/-- A line that goes on with a word has at least that word. -/
theorem tokensFrom_ne_nil {word : List Char} (hword : word ≠ []) (l : List Char) : tokensFrom word l ≠ [] := by
  induction l generalizing word with
  | nil => exact consToken_ne_nil hword []
  | cons c cs ih =>
    rw [tokensFrom]
    split_ifs
    · exact consToken_ne_nil hword _
    · exact consToken_ne_nil hword _
    · exact ih (List.cons_ne_nil c word)

/-- Whether a character belongs to a word: it neither separates words nor begins a comment. -/
def isWordChar (c : Char) : Bool := !isSeparator c && c != ';'

/-- A word followed by a blank is the next word of the line. -/
theorem tokensFrom_word_blank {word l : List Char} (hl : l.all isWordChar = true) (rest : List Char) :
    tokensFrom word (l ++ ' ' :: rest) = consToken (l.reverse ++ word) (tokensFrom [] rest) := by
  induction l generalizing word with
  | nil =>
    have hblank : isSeparator ' ' = true := rfl
    rw [List.nil_append, tokensFrom, if_neg (by decide), if_pos hblank, List.reverse_nil, List.nil_append]
  | cons c cs ih =>
    rw [List.all_cons, Bool.and_eq_true] at hl
    obtain ⟨hc, hcs⟩ := hl
    rw [isWordChar, Bool.and_eq_true, Bool.not_eq_true', bne_iff_ne] at hc
    obtain ⟨hsep, hsemi⟩ := hc
    rw [List.cons_append, tokensFrom, if_neg hsemi, if_neg (Bool.eq_false_iff.mp hsep), ih hcs, List.reverse_cons,
      List.append_assoc, List.singleton_append]

/-! ## Commands and their operands (R81) -/

theorem assemble_comment (l comment : List Char) : assemble (l ++ ';' :: comment) = assemble l := by
  rw [assemble, tokensFrom_comment, assemble]

theorem assemble_blank_comment (l comment : List Char) : assemble (l ++ ' ' :: ';' :: comment) = assemble l := by
  have hsplit : l ++ ' ' :: ';' :: comment = (l ++ [' ']) ++ ';' :: comment := by simp
  rw [hsplit, assemble_comment, assemble, tokensFrom_blank, assemble]

/-- The assembler reads the written form of every well-formed command. -/
theorem assemble_commandText {i : Instr} (h : i.wellFormed = true) : assemble (commandText i) = some (.command i) := by
  cases i with
  | mix a =>
    have hpivots : ∀ a : BitVec 3, pivotLegal a = true → assemble (commandText (.mix a)) = some (.command (.mix a)) := by
      decide
    exact hpivots a h
  | _ => rfl

/-- The mnemonics of the commands without an operand are words, and none of them is that of MIX or of another kind of line. -/
theorem plainCommands_text : ∀ i ∈ plainCommands,
    (commandText i).all isWordChar = true ∧ commandText i ≠ [] ∧
      commandText i ∉ ["poll".toList, "mixall".toList, "hashseq".toList, "wr".toList, "rd".toList, "mem".toList,
        "wr64".toList, "rd64".toList, "mix".toList] := by
  decide

/-- A command's mnemonic other than that of MIX with a further word after it spells no line. -/
theorem parseTokens_operand {m t : List Char} (ts : List (List Char))
    (hm : m ∉ ["poll".toList, "mixall".toList, "hashseq".toList, "wr".toList, "rd".toList, "mem".toList, "wr64".toList,
      "rd64".toList, "mix".toList]) : parseTokens (m :: t :: ts) = none := by
  simp only [List.mem_cons, List.not_mem_nil, or_false, not_or] at hm
  obtain ⟨hpoll, hmixall, hhashseq, hwr, hrd, hmem, hwr64, hrd64, hmix⟩ := hm
  have hcommand : parseCommand (m :: t :: ts) = none := by
    cases ts with
    | nil => rw [parseCommand, if_neg hmix]
    | cons _ _ => rfl
  simp only [parseTokens, hpoll, hmixall, hhashseq, hwr, hrd, hmem, hwr64, hrd64, hcommand, if_false, Option.map_none]

/-- An operand on a command that takes none is refused, whatever its text. -/
theorem assemble_operand {i : Instr} (hi : i ∈ plainCommands) {c : Char} (operand : List Char) (hsep : isSeparator c = false)
    (hsemi : c ≠ ';') : assemble (commandText i ++ ' ' :: c :: operand) = none := by
  obtain ⟨hword, hne, hkind⟩ := plainCommands_text i hi
  have hrest : tokensFrom [] (c :: operand) = tokensFrom [c] operand := by
    rw [tokensFrom, if_neg hsemi, if_neg (Bool.eq_false_iff.mp hsep)]
  obtain ⟨t, ts, htokens⟩ := List.exists_cons_of_ne_nil (tokensFrom_ne_nil (List.cons_ne_nil c []) operand)
  have hmnemonic : consToken ((commandText i).reverse ++ []) (t :: ts) = commandText i :: t :: ts := by
    rw [List.append_nil, consToken_of_ne_nil (mt List.reverse_eq_nil_iff.mp hne), List.reverse_reverse]
  rw [assemble, tokensFrom_word_blank hword, hrest, htokens, hmnemonic, parseTokens_operand ts hkind]

/-- Settles O60: a comment is cut off before the words are read, the written forms are read one by one, and an operand makes a second
word; the expansions are `expandLine` by definition. -/
theorem writtenFormsAgree : Obligations.WrittenFormsAgree := by
  have hmix7 : assemble "mix 7".toList = none := by decide
  refine ⟨fun _ => assemble_commandText, fun i comment h => ⟨?_, ?_⟩, hmix7, fun comment => ?_,
    fun i hi c operand => assemble_operand hi operand, fun _ => rfl, fun _ => rfl, fun _ => rfl, fun _ => rfl, ?_, ?_⟩
  · rw [assemble_comment, assemble_commandText h]
  · rw [assemble_blank_comment, assemble_commandText h]
  · exact (assemble_comment "mix 7".toList comment).trans hmix7
  · decide
  · decide

end Sys2Proof.Machine
end
